-- ==== Sys2Proof/Word.lean ====
section
/-! DEFINITION. The machine's word types (R7, R20). -/

namespace Sys2Proof

/-- An 8-bit value: a general register, a timer, a byte of memory (R20). -/
abbrev Byte := BitVec 8

/-- A 16-bit value: an opcode, PC, I, a stack entry (R20, R70). -/
abbrev Word := BitVec 16

/-- The name of a general register, V0 to VF (R21, R73). -/
abbrev RegIx := Fin 16

end Sys2Proof
end

