-- ==== Sys2Proof/Syntax.lean ====
section
/-! DEFINITION. The 35 instructions (R75, opcode_table.json), one constructor per row. -/

namespace Sys2Proof

/-- An instruction with the fields its form names (R71, R73): registers `x`, `y`, immediates `nn`, `nnn`, height `n`.
SHR, SHL and SYS carry the fields they ignore (R78), so that an instruction determines its word. -/
inductive Instr where
  /-- 00E0 (R191) -/
  | cls
  /-- 00EE (R110) -/
  | ret
  /-- 0nnn but for 00E0 and 00EE (R111) -/
  | sys (nnn : BitVec 12)
  /-- 1nnn (R112) -/
  | jp (nnn : BitVec 12)
  /-- 2nnn (R113) -/
  | call (nnn : BitVec 12)
  /-- 3xnn, SE Vx, nn (R130) -/
  | seImm (x : RegIx) (nn : Byte)
  /-- 4xnn, SNE Vx, nn (R131) -/
  | sneImm (x : RegIx) (nn : Byte)
  /-- 5xy0, SE Vx, Vy (R132) -/
  | seReg (x y : RegIx)
  /-- 9xy0, SNE Vx, Vy (R133) -/
  | sneReg (x y : RegIx)
  /-- 6xnn, LD Vx, nn (R142) -/
  | ldImm (x : RegIx) (nn : Byte)
  /-- 7xnn, ADD Vx, nn (R143) -/
  | addImm (x : RegIx) (nn : Byte)
  /-- 8xy0, LD Vx, Vy (R144) -/
  | ldReg (x y : RegIx)
  /-- 8xy1, OR Vx, Vy (R145) -/
  | orReg (x y : RegIx)
  /-- 8xy2, AND Vx, Vy (R146) -/
  | andReg (x y : RegIx)
  /-- 8xy3, XOR Vx, Vy (R147) -/
  | xorReg (x y : RegIx)
  /-- 8xy4, ADD Vx, Vy (R148) -/
  | addReg (x y : RegIx)
  /-- 8xy5, SUB Vx, Vy (R149) -/
  | sub (x y : RegIx)
  /-- 8xy6, SHR Vx; `y` is ignored (R150) -/
  | shr (x y : RegIx)
  /-- 8xy7, SUBN Vx, Vy (R151) -/
  | subn (x y : RegIx)
  /-- 8xyE, SHL Vx; `y` is ignored (R152) -/
  | shl (x y : RegIx)
  /-- Annn, LD I, nnn (R172) -/
  | ldI (nnn : BitVec 12)
  /-- Bnnn, JP V0, nnn (R114) -/
  | jpV0 (nnn : BitVec 12)
  /-- Cxnn, RND Vx, nn (R153) -/
  | rnd (x : RegIx) (nn : Byte)
  /-- Dxyn, DRW Vx, Vy, n (R192) -/
  | drw (x y : RegIx) (n : Fin 16)
  /-- Ex9E, SKP Vx (R210) -/
  | skp (x : RegIx)
  /-- ExA1, SKNP Vx (R211) -/
  | sknp (x : RegIx)
  /-- Fx07, LD Vx, DT (R213) -/
  | ldXDt (x : RegIx)
  /-- Fx15, LD DT, Vx (R214) -/
  | ldDtX (x : RegIx)
  /-- Fx18, LD ST, Vx (R215) -/
  | ldStX (x : RegIx)
  /-- Fx0A, LD Vx, K (R216) -/
  | ldXK (x : RegIx)
  /-- Fx1E, ADD I, Vx (R173) -/
  | addI (x : RegIx)
  /-- Fx29, LD F, Vx (R174) -/
  | ldF (x : RegIx)
  /-- Fx33, LD B, Vx (R175) -/
  | ldB (x : RegIx)
  /-- Fx55, LD [I], Vx (R176) -/
  | ldMemX (x : RegIx)
  /-- Fx65, LD Vx, [I] (R177) -/
  | ldXMem (x : RegIx)
  deriving DecidableEq, Repr

end Sys2Proof
end

