-- ==== Sys2Proof/WellFormed.lean ====
section
/-! DEFINITION. Which instruction terms stand for an encoding. The field types bound every operand (R71, R72); one check
is left: SYS is every word 0nnn EXCEPT 00E0 and 00EE (R74, R76). -/

namespace Sys2Proof

/-- SYS with nnn = 0x0E0 or 0x0EE is no instruction: those words are CLS and RET (R76, R111). Every other term is well-formed. -/
def Instr.wf : Instr → Bool
  | .sys nnn => nnn != 0x0E0 && nnn != 0x0EE
  | .cls | .ret | .jp _ | .call _ | .seImm _ _ | .sneImm _ _ | .seReg _ _ | .sneReg _ _ | .ldImm _ _ | .addImm _ _
  | .ldReg _ _ | .orReg _ _ | .andReg _ _ | .xorReg _ _ | .addReg _ _ | .sub _ _ | .shr _ _ | .subn _ _ | .shl _ _
  | .ldI _ | .jpV0 _ | .rnd _ _ | .drw _ _ _ | .skp _ | .sknp _ | .ldXDt _ | .ldDtX _ | .ldStX _ | .ldXK _ | .addI _
  | .ldF _ | .ldB _ | .ldMemX _ | .ldXMem _ => true

end Sys2Proof
end

