-- ==== Sys2Proof/Decode.lean ====
section
/-! DEFINITION. The fields of an opcode (R72), the decoder (R74), the encoder written from the patterns of R71 and R75,
and the opcode table of R75 as rows of match and mask. -/

namespace Sys2Proof

/-- `w[hi:lo]` as an unsigned number (R9). -/
def field (w : Word) (hi lo : Nat) : Nat := w.toNat / 2 ^ lo % 2 ^ (hi - lo + 1)

/-- `op = w[15:12]` (R72). -/
def fieldOp (w : Word) : Nat := field w 15 12

/-- `x = w[11:8]` (R72). -/
def fieldX (w : Word) : RegIx := ⟨field w 11 8, Nat.mod_lt _ (by decide)⟩

/-- `y = w[7:4]` (R72). -/
def fieldY (w : Word) : RegIx := ⟨field w 7 4, Nat.mod_lt _ (by decide)⟩

/-- `n = w[3:0]` (R72). -/
def fieldN (w : Word) : Fin 16 := ⟨field w 3 0, Nat.mod_lt _ (by decide)⟩

/-- `nn = w[7:0]` (R72). -/
def fieldNN (w : Word) : Byte := BitVec.ofNat 8 (field w 7 0)

/-- `nnn = w[11:0]` (R72). -/
def fieldNNN (w : Word) : BitVec 12 := BitVec.ofNat 12 (field w 11 0)

/-- Why a decode gives no instruction: R74's `Illegal`, or, for a list of bytes, fewer than the two bytes of R70. -/
inductive DecodeReject where
  | illegal (w : Word)
  | truncated
  deriving DecidableEq, Repr

/-- R74, case for case: the total decode of a 16-bit word. -/
def decode (w : Word) : Except DecodeReject Instr :=
  let x := fieldX w
  let y := fieldY w
  match fieldOp w with
  | 0x0 => if w = 0x00E0 then .ok .cls else if w = 0x00EE then .ok .ret else .ok (.sys (fieldNNN w))
  | 0x1 => .ok (.jp (fieldNNN w))
  | 0x2 => .ok (.call (fieldNNN w))
  | 0x3 => .ok (.seImm x (fieldNN w))
  | 0x4 => .ok (.sneImm x (fieldNN w))
  | 0x5 => if field w 3 0 = 0 then .ok (.seReg x y) else .error (.illegal w)
  | 0x6 => .ok (.ldImm x (fieldNN w))
  | 0x7 => .ok (.addImm x (fieldNN w))
  | 0x8 =>
    match field w 3 0 with
    | 0x0 => .ok (.ldReg x y)
    | 0x1 => .ok (.orReg x y)
    | 0x2 => .ok (.andReg x y)
    | 0x3 => .ok (.xorReg x y)
    | 0x4 => .ok (.addReg x y)
    | 0x5 => .ok (.sub x y)
    | 0x6 => .ok (.shr x y)
    | 0x7 => .ok (.subn x y)
    | 0xE => .ok (.shl x y)
    | _ => .error (.illegal w)
  | 0x9 => if field w 3 0 = 0 then .ok (.sneReg x y) else .error (.illegal w)
  | 0xA => .ok (.ldI (fieldNNN w))
  | 0xB => .ok (.jpV0 (fieldNNN w))
  | 0xC => .ok (.rnd x (fieldNN w))
  | 0xD => .ok (.drw x y (fieldN w))
  | 0xE =>
    match field w 7 0 with
    | 0x9E => .ok (.skp x)
    | 0xA1 => .ok (.sknp x)
    | _ => .error (.illegal w)
  | 0xF =>
    match field w 7 0 with
    | 0x07 => .ok (.ldXDt x)
    | 0x0A => .ok (.ldXK x)
    | 0x15 => .ok (.ldDtX x)
    | 0x18 => .ok (.ldStX x)
    | 0x1E => .ok (.addI x)
    | 0x29 => .ok (.ldF x)
    | 0x33 => .ok (.ldB x)
    | 0x55 => .ok (.ldMemX x)
    | 0x65 => .ok (.ldXMem x)
    | _ => .error (.illegal w)
  | _ => .error (.illegal w)

/-- The opcode two bytes make: the first supplies bits 15:8, the second bits 7:0 (R52). -/
def opcodeOfBytes (hi lo : Byte) : Word := hi ++ lo

/-- Decode the first instruction of a list of bytes and give the bytes after it (R52, R70). -/
def decodeBytes : List Byte → Except DecodeReject (Instr × List Byte)
  | hi :: lo :: rest => (decode (opcodeOfBytes hi lo)).map fun i => (i, rest)
  | _ => .error .truncated

/-- Form `nnn` of R71. -/
def wordNNN (op : Nat) (nnn : BitVec 12) : Word := BitVec.ofNat 16 (op * 0x1000 + nnn.toNat)

/-- Form `xnn` of R71. -/
def wordXNN (op : Nat) (x : RegIx) (nn : Byte) : Word := BitVec.ofNat 16 (op * 0x1000 + x.val * 0x100 + nn.toNat)

/-- Forms `xy` and `xyn` of R71. -/
def wordXYN (op : Nat) (x y : RegIx) (n : Nat) : Word := BitVec.ofNat 16 (op * 0x1000 + x.val * 0x100 + y.val * 0x10 + n)

/-- Form `x` of R71: the low byte is fixed. -/
def wordX (op : Nat) (x : RegIx) (nn : Nat) : Word := BitVec.ofNat 16 (op * 0x1000 + x.val * 0x100 + nn)

/-- The word of an instruction, from the patterns of R75. -/
def encode : Instr → Word
  | .cls => 0x00E0
  | .ret => 0x00EE
  | .sys nnn => wordNNN 0x0 nnn
  | .jp nnn => wordNNN 0x1 nnn
  | .call nnn => wordNNN 0x2 nnn
  | .seImm x nn => wordXNN 0x3 x nn
  | .sneImm x nn => wordXNN 0x4 x nn
  | .seReg x y => wordXYN 0x5 x y 0x0
  | .sneReg x y => wordXYN 0x9 x y 0x0
  | .ldImm x nn => wordXNN 0x6 x nn
  | .addImm x nn => wordXNN 0x7 x nn
  | .ldReg x y => wordXYN 0x8 x y 0x0
  | .orReg x y => wordXYN 0x8 x y 0x1
  | .andReg x y => wordXYN 0x8 x y 0x2
  | .xorReg x y => wordXYN 0x8 x y 0x3
  | .addReg x y => wordXYN 0x8 x y 0x4
  | .sub x y => wordXYN 0x8 x y 0x5
  | .shr x y => wordXYN 0x8 x y 0x6
  | .subn x y => wordXYN 0x8 x y 0x7
  | .shl x y => wordXYN 0x8 x y 0xE
  | .ldI nnn => wordNNN 0xA nnn
  | .jpV0 nnn => wordNNN 0xB nnn
  | .rnd x nn => wordXNN 0xC x nn
  | .drw x y n => wordXYN 0xD x y n.val
  | .skp x => wordX 0xE x 0x9E
  | .sknp x => wordX 0xE x 0xA1
  | .ldXDt x => wordX 0xF x 0x07
  | .ldDtX x => wordX 0xF x 0x15
  | .ldStX x => wordX 0xF x 0x18
  | .ldXK x => wordX 0xF x 0x0A
  | .addI x => wordX 0xF x 0x1E
  | .ldF x => wordX 0xF x 0x29
  | .ldB x => wordX 0xF x 0x33
  | .ldMemX x => wordX 0xF x 0x55
  | .ldXMem x => wordX 0xF x 0x65

/-- The two bytes of an opcode as memory holds them, bits 15:8 first (R52). -/
def bytesOfOpcode (w : Word) : List Byte := [w.extractLsb' 8 8, w.extractLsb' 0 8]

/-- The two bytes of an instruction, the high one first (R52, R70). -/
def encodeBytes (i : Instr) : List Byte := bytesOfOpcode (encode i)

/-- The opcode that `nbits` bits of an opcode-table row stand for, the bits above them 0 (R70: 16 bits, one word). -/
def tableOpcode (nbits w : Nat) : Word := BitVec.ofNat 16 (w % 2 ^ nbits)

/-- What the decoder reads from the bytes of a word numbered as opcode_table.json numbers it. -/
def decodeTableWord (nbits w : Nat) : Option Instr :=
  match decodeBytes (bytesOfOpcode (tableOpcode nbits w)) with
  | .ok (i, _) => some i
  | .error _ => none

/-- An instruction's mnemonic in opcode_table.json. -/
def Instr.mnemonic : Instr → String
  | .cls => "CLS"
  | .ret => "RET"
  | .sys _ => "SYS_nnn"
  | .jp _ => "JP_nnn"
  | .call _ => "CALL_nnn"
  | .seImm _ _ => "SE_Vx__nn"
  | .sneImm _ _ => "SNE_Vx__nn"
  | .seReg _ _ => "SE_Vx__Vy"
  | .sneReg _ _ => "SNE_Vx__Vy"
  | .ldImm _ _ => "LD_Vx__nn"
  | .addImm _ _ => "ADD_Vx__nn"
  | .ldReg _ _ => "LD_Vx__Vy"
  | .orReg _ _ => "OR_Vx__Vy"
  | .andReg _ _ => "AND_Vx__Vy"
  | .xorReg _ _ => "XOR_Vx__Vy"
  | .addReg _ _ => "ADD_Vx__Vy"
  | .sub _ _ => "SUB_Vx__Vy"
  | .shr _ _ => "SHR_Vx____Vy"
  | .subn _ _ => "SUBN_Vx__Vy"
  | .shl _ _ => "SHL_Vx____Vy"
  | .ldI _ => "LD_I__nnn"
  | .jpV0 _ => "JP_V0__nnn"
  | .rnd _ _ => "RND_Vx__nn"
  | .drw _ _ _ => "DRW_Vx__Vy__n"
  | .skp _ => "SKP_Vx"
  | .sknp _ => "SKNP_Vx"
  | .ldXDt _ => "LD_Vx__DT"
  | .ldDtX _ => "LD_DT__Vx"
  | .ldStX _ => "LD_ST__Vx"
  | .ldXK _ => "LD_Vx__K"
  | .addI _ => "ADD_I__Vx"
  | .ldF _ => "LD_F__Vx"
  | .ldB _ => "LD_B__Vx"
  | .ldMemX _ => "LD__I___Vx"
  | .ldXMem _ => "LD_Vx___I"

/-- A row of opcode_table.json: a word is the row's when its bits under `mask` are `bits`. -/
structure OpcodeRow where
  mnemonic : String
  bits : Word
  mask : Word
  deriving DecidableEq, Repr

/-- Whether a word is of a row's pattern. -/
def OpcodeRow.fits (r : OpcodeRow) (w : Word) : Bool := w &&& r.mask == r.bits

/-- opcode_table.json, rows of the 0, 1, 2, 3, 4, 5, 9, 6 and 7 families. -/
def opcodeTableA : List OpcodeRow := [
  ⟨"CLS", 0x00E0, 0xFFFF⟩,
  ⟨"RET", 0x00EE, 0xFFFF⟩,
  ⟨"JP_nnn", 0x1000, 0xF000⟩,
  ⟨"CALL_nnn", 0x2000, 0xF000⟩,
  ⟨"SE_Vx__nn", 0x3000, 0xF000⟩,
  ⟨"SNE_Vx__nn", 0x4000, 0xF000⟩,
  ⟨"SE_Vx__Vy", 0x5000, 0xF00F⟩,
  ⟨"SNE_Vx__Vy", 0x9000, 0xF00F⟩,
  ⟨"LD_Vx__nn", 0x6000, 0xF000⟩,
  ⟨"ADD_Vx__nn", 0x7000, 0xF000⟩]

/-- opcode_table.json, rows of the 8 family. -/
def opcodeTableB : List OpcodeRow := [
  ⟨"LD_Vx__Vy", 0x8000, 0xF00F⟩,
  ⟨"OR_Vx__Vy", 0x8001, 0xF00F⟩,
  ⟨"AND_Vx__Vy", 0x8002, 0xF00F⟩,
  ⟨"XOR_Vx__Vy", 0x8003, 0xF00F⟩,
  ⟨"ADD_Vx__Vy", 0x8004, 0xF00F⟩,
  ⟨"SUB_Vx__Vy", 0x8005, 0xF00F⟩,
  ⟨"SHR_Vx____Vy", 0x8006, 0xF00F⟩,
  ⟨"SUBN_Vx__Vy", 0x8007, 0xF00F⟩,
  ⟨"SHL_Vx____Vy", 0x800E, 0xF00F⟩]

/-- opcode_table.json, rows of the A, B, C, D, E and F families, and SYS, whose priority is the lowest (R74). -/
def opcodeTableC : List OpcodeRow := [
  ⟨"LD_I__nnn", 0xA000, 0xF000⟩,
  ⟨"JP_V0__nnn", 0xB000, 0xF000⟩,
  ⟨"RND_Vx__nn", 0xC000, 0xF000⟩,
  ⟨"DRW_Vx__Vy__n", 0xD000, 0xF000⟩,
  ⟨"SKP_Vx", 0xE09E, 0xF0FF⟩,
  ⟨"SKNP_Vx", 0xE0A1, 0xF0FF⟩,
  ⟨"LD_Vx__DT", 0xF007, 0xF0FF⟩,
  ⟨"LD_DT__Vx", 0xF015, 0xF0FF⟩,
  ⟨"LD_ST__Vx", 0xF018, 0xF0FF⟩,
  ⟨"LD_Vx__K", 0xF00A, 0xF0FF⟩,
  ⟨"ADD_I__Vx", 0xF01E, 0xF0FF⟩,
  ⟨"LD_F__Vx", 0xF029, 0xF0FF⟩,
  ⟨"LD_B__Vx", 0xF033, 0xF0FF⟩,
  ⟨"LD__I___Vx", 0xF055, 0xF0FF⟩,
  ⟨"LD_Vx___I", 0xF065, 0xF0FF⟩,
  ⟨"SYS_nnn", 0x0000, 0xF000⟩]

/-- The 35 rows of R75, in the source's order. -/
def opcodeTable : List OpcodeRow := opcodeTableA ++ opcodeTableB ++ opcodeTableC

/-- The mnemonic the table gives a word: that of the first row it fits, none where it fits no row (an illegal word). -/
def tableMnemonic (w : Word) : Option String := (opcodeTable.find? (·.fits w)).map (·.mnemonic)

end Sys2Proof
end

