-- ==== Sys2Proof/Config.lean ====
section
/-! DEFINITION. The fixed parameters of the core (R7), its configuration parameters (R8) and its one free value, the random draw (R153). -/

namespace Sys2Proof

/-- `MEM_SIZE` (R7): 4096 bytes, addresses 0x000-0xFFF. -/
abbrev memSize : Nat := 0x1000

/-- `PC_RESET` and `PROG_BASE` (R7). -/
abbrev progBase : Nat := 0x200

/-- `FONT_BASE` (R7). -/
abbrev fontBase : Nat := 0x050

/-- `FONT_SIZE` (R7): 16 glyphs of 5 bytes. -/
abbrev fontSize : Nat := 80

/-- `MAX_ROM` (R7). -/
abbrev maxRom : Nat := 3584

/-- `STACK_LIMIT` (R7, D7). -/
abbrev stackLimit : Nat := 16

/-- `DISPLAY_W` (R7). -/
abbrev displayW : Nat := 64

/-- `DISPLAY_H` (R7). -/
abbrev displayH : Nat := 32

/-- `KEY_WAIT_MODE` (R8, D15). -/
inductive KeyWaitMode where
  | reference
  | corrected
  deriving DecidableEq, Repr

/-- `FONT` (R8, R40): the 80 bytes reset writes at 0x050. -/
abbrev Font := Vector Byte fontSize

/-- The configuration parameters of R8, but for `RNG`, which is `Config.rngDraw`. A model takes them as arguments; here they
travel in `Machine.State.config`, which nothing changes (log 1). -/
structure Config where
  keyWaitMode : KeyWaitMode
  waitTicksTimers : Bool
  font : Font
  cyclesPerFrame : Nat
  deriving DecidableEq, Repr

/-- PRESUMED (the spec's own mark on these bytes: general knowledge, G1; unsafe, log 2). The default `FONT`, one row per
glyph (R40's table). -/
def Config.defaultFont : Font := #v[
  0xF0, 0x90, 0x90, 0x90, 0xF0,
  0x20, 0x60, 0x20, 0x20, 0x70,
  0xF0, 0x10, 0xF0, 0x80, 0xF0,
  0xF0, 0x10, 0xF0, 0x10, 0xF0,
  0x90, 0x90, 0xF0, 0x10, 0x10,
  0xF0, 0x80, 0xF0, 0x10, 0xF0,
  0xF0, 0x80, 0xF0, 0x90, 0xF0,
  0xF0, 0x10, 0x20, 0x40, 0x40,
  0xF0, 0x90, 0xF0, 0x90, 0xF0,
  0xF0, 0x90, 0xF0, 0x10, 0xF0,
  0xF0, 0x90, 0xF0, 0x90, 0x90,
  0xE0, 0x90, 0xE0, 0x90, 0xE0,
  0xF0, 0x80, 0x80, 0x80, 0xF0,
  0xE0, 0x90, 0x90, 0x90, 0xE0,
  0xF0, 0x80, 0xF0, 0x80, 0xF0,
  0xF0, 0x80, 0xF0, 0x80, 0x80]

/-- The defaults of R8's table. -/
def Config.default : Config where
  keyWaitMode := .corrected
  waitTicksTimers := true
  font := Config.defaultFont
  cyclesPerFrame := 10

/-- The `RNG` oracle (R8, R12, R153, D18): its answer to the k-th draw. A FREE VALUE: no body, so that a claim about it holds
for every generator (DESIGN CHOICE of the form, safe, log 3). -/
opaque Config.rngDraw : Nat → Byte

end Sys2Proof
end

