-- ==== Sys2Proof/Machine/State.lean ====
section
/-! DEFINITION. The machine's state (R20), the fault record (R35), the error kinds (R270), the state after reset (R41). -/

namespace Sys2Proof.Machine

/-- The step faults of R270. -/
inductive FaultKind where
  | stackUnderflow
  | stackOverflow
  | memoryOutOfBounds
  | illegalOpcode
  | keyIndexOutOfRange
  deriving DecidableEq, Repr

/-- The host errors of R270, which a host operation returns and no step raises. -/
inductive HostError where
  | romTooLarge
  | stateCorrupt
  | badKeyIndex
  deriving DecidableEq, Repr

/-- A fault record `(kind, pc, opcode, addr)` (R35). `addr` is a number: a byte address of up to 16 bits or a key index. -/
structure FaultRecord where
  kind : FaultKind
  pc : Word
  opcode : Option Word
  addr : Option Nat
  deriving DecidableEq, Repr

/-- Memory as its listed bytes, addresses strictly rising; an unlisted address holds its reset content (R37, log 7). The
canonical form is `Memory.wf`. -/
abbrev Memory := List Host.Cell

/-- 32 rows of 64 cells, row 0 at the top, column 0 at the left (R29). -/
abbrev Display := Vector (Vector Bool displayW) displayH

/-- The machine state: the record of R20, under its own names, and two fields of the model's own: `config`, the parameters a
model takes as arguments (R8, R36, log 1), and `rngDraws`, how many draws the oracle has given (R153, log 3). -/
structure State where
  config : Config
  rngDraws : Nat
  memory : Memory
  V : Vector Byte 16
  I : Word
  PC : Word
  /-- newest last (R10, R27) -/
  stack : List Word
  DT : Byte
  ST : Byte
  display : Display
  displayDirty : Bool
  keys : Vector Bool 16
  awaitingKey : Option RegIx
  fault : Option FaultRecord
  deriving DecidableEq, Repr

/-- A newly constructed machine with the given parameters (R291): the reset state of R41. The fontset is what unlisted
addresses 0x050-0x09F read as. -/
def State.construct (c : Config) : State where
  config := c
  rngDraws := 0
  memory := []
  V := Vector.replicate 16 0
  I := 0
  PC := 0x200
  stack := []
  DT := 0
  ST := 0
  display := Vector.replicate displayH (Vector.replicate displayW false)
  displayDirty := false
  keys := Vector.replicate 16 false
  awaitingKey := none
  fault := none

/-- The machine right after reset, every field as R41 says, the parameters at R8's defaults. -/
def State.reset : State := State.construct Config.default

/-- Why a step gives no next state. -/
inductive Fault where
  /-- Raised by `step` alone, when a fault is latched already: R90's `Faulted(record)`, "A model gives the faulted machine no
  further step". Safe: the real core, too, changes no state there. A step that RAISES a fault is no stop: it ends in a next
  state with the latch set (R97, log 5). -/
  | faulted (record : FaultRecord)
  deriving DecidableEq, Repr

/-- Why the model gives an instruction no meaning. -/
inductive Refusal where
  /-- Raised only by an arm of `exec` for an instruction with no meaning yet; no arm is such today. Safe. -/
  | notModelled (mnemonic : String)
  deriving DecidableEq, Repr

/-- What a meaning answers. -/
abbrev Result := Host.Outcome State Fault Refusal

end Sys2Proof.Machine
end

