-- ==== Sys2Proof/Machine/Memory.lean ====
section
/-! DEFINITION. Memory as canonical data: reading and writing one byte, runs of bytes, the canonical form. -/

namespace Sys2Proof.Machine

/-- What an address nothing has written holds: the font in 0x050-0x09F, else 0 (R37, R41; log 7). Total: an address outside
memory reads 0 here, and every access of an instruction is checked first (R55, log 8). -/
def resetByte (font : Font) (a : Nat) : Byte :=
  if h : fontBase ≤ a ∧ a - fontBase < fontSize then font.get ⟨a - fontBase, h.2⟩ else 0

/-- The byte at an address. -/
def Memory.read (font : Font) : Memory → Nat → Byte
  | [], a => resetByte font a
  | (b, v) :: m, a => if a = b then v else Memory.read font m a

/-- List a byte in its place. -/
def Memory.listByte : Memory → Nat → Byte → Memory
  | [], a, v => [(a, v)]
  | (b, u) :: m, a, v =>
    if a < b then (a, v) :: (b, u) :: m
    else if a = b then (a, v) :: m
    else (b, u) :: Memory.listByte m a v

/-- Take an address off the list, so that it reads its reset content. -/
def Memory.unlistByte : Memory → Nat → Memory
  | [], _ => []
  | (b, u) :: m, a => if a = b then m else (b, u) :: Memory.unlistByte m a

/-- Write one byte and keep the canonical form: writing an address's reset content removes its entry. -/
def Memory.write (font : Font) (m : Memory) (a : Nat) (v : Byte) : Memory :=
  if v = resetByte font a then m.unlistByte a else m.listByte a v

/-- Write a run of bytes from an address upwards. -/
def Memory.writeRun (font : Font) (m : Memory) (a : Nat) : List Byte → Memory
  | [] => m
  | v :: vs => Memory.writeRun font (m.write font a v) (a + 1) vs

/-- The bytes of a run of addresses. -/
def Memory.readRun (font : Font) (m : Memory) (a n : Nat) : List Byte :=
  (List.range n).map fun k => m.read font (a + k)

/-- The canonical memory whose bytes from address `a` upwards are the given ones, every other byte at its reset content. -/
def Memory.ofBytes (font : Font) (a : Nat) : List Byte → Memory
  | [] => []
  | v :: vs => if v = resetByte font a then Memory.ofBytes font (a + 1) vs else (a, v) :: Memory.ofBytes font (a + 1) vs

/-- The canonical form: addresses strictly rising, inside memory (R50), and no entry equal to its reset content. -/
abbrev Memory.wf (font : Font) (m : Memory) : Prop :=
  m.Pairwise (fun c d => c.1 < d.1) ∧ ∀ c ∈ m, c.1 < memSize ∧ c.2 ≠ resetByte font c.1

end Sys2Proof.Machine
end

