-- ==== Sys2Proof/Machine/Ops.lean ====
section
/-! DEFINITION. The named operations over the state: registers, memory, the stack, the timers' tick, the display's cells, and
raising a fault. Everything a meaning does goes through them. -/

namespace Sys2Proof.Machine

/-- Read `V[x]` (R10). -/
def State.reg (s : State) (x : RegIx) : Byte := s.V.get x

/-- `V[x] <- v` (R10). -/
def State.setReg (s : State) (x : RegIx) (v : Byte) : State := { s with V := s.V.set x.val v x.isLt }

/-- `I <- v` (R10). -/
def State.setI (s : State) (v : Word) : State := { s with I := v }

/-- `PC <- v` (R10). -/
def State.setPC (s : State) (v : Word) : State := { s with PC := v }

/-- `DT <- v` (R10). -/
def State.setDT (s : State) (v : Byte) : State := { s with DT := v }

/-- `ST <- v` (R10). -/
def State.setST (s : State) (v : Byte) : State := { s with ST := v }

/-- `awaiting_key <- v` (R32). -/
def State.setAwaiting (s : State) (v : Option RegIx) : State := { s with awaitingKey := v }

/-- `fault <- v` (R271). -/
def State.setFault (s : State) (v : Option FaultRecord) : State := { s with fault := v }

/-- Replace the stack. -/
def State.setStack (s : State) (v : List Word) : State := { s with stack := v }

/-- Replace the display, and say whether it is dirty. -/
def State.setDisplay (s : State) (d : Display) (dirty : Bool) : State := { s with display := d, displayDirty := dirty }

/-- `keys[k] <- v` (R31). -/
def State.setKey (s : State) (k : Fin 16) (v : Bool) : State := { s with keys := s.keys.set k.val v k.isLt }

/-- Replace the memory. -/
def State.setMemory (s : State) (m : Memory) : State := { s with memory := m }

/-- Count one draw of the oracle (R153). -/
def State.countDraw (s : State) : State := { s with rngDraws := s.rngDraws + 1 }

/-- `MemRead(a, 1)` (R11). -/
def State.readByte (s : State) (a : Nat) : Byte := s.memory.read s.config.font a

/-- `MemRead(a, n)` as bytes (R11). -/
def State.readRun (s : State) (a n : Nat) : List Byte := s.memory.readRun s.config.font a n

/-- `MemWrite` of a run of bytes from address `a` (R11). -/
def State.writeRun (s : State) (a : Nat) (vs : List Byte) : State := s.setMemory (s.memory.writeRun s.config.font a vs)

/-- `PC <- PC + 2`: the fetch's advance (R92) and a skip's (R134). -/
def State.advance (s : State) : State := s.setPC (s.PC + 2)

/-- `push(v)` (R10): the newest entry is the last. -/
def State.push (s : State) (v : Word) : State := s.setStack (s.stack ++ [v])

/-- One timer's part of R95's tick. -/
def countDown (t : Byte) : Byte := if t = 0 then t else t - 1

/-- The timer tick (R95). -/
def State.tick (s : State) : State := (s.setDT (countDown s.DT)).setST (countDown s.ST)

/-- `display[r][c]` (R10). -/
def cell (d : Display) (r : Fin displayH) (c : Fin displayW) : Bool := (d.get r).get c

/-- Toggle `display[r][c]` (R193). -/
def toggleCell (d : Display) (r : Fin displayH) (c : Fin displayW) : Display :=
  d.set r.val ((d.get r).set c.val (!cell d r c) c.isLt) r.isLt

/-- Every cell 0 (R191). -/
def clearDisplay : Display := Vector.replicate displayH (Vector.replicate displayW false)

/-- TAKING A FAULT (R97, R271, R275): every field keeps the value it had when the step began, and the latch holds the record.
When an instruction raises, the fetch's advance is the step's only effect so far (R14, and each rule's check stands before
its first write), so the state of the step's start is this one with PC two lower (DEDUCED, safe, log 6). -/
def State.undoAdvance (s : State) : State := s.setPC (s.PC - 2)

/-- Latch a fault in the state of the step's start, `s` (R271): `pc` is the PC there (R35). -/
def State.latch (s : State) (k : FaultKind) (opcode : Option Word) (addr : Option Nat) : State :=
  s.setFault (some ⟨k, s.PC, opcode, addr⟩)

/-- `raise F(pc = a, opcode = w, addr)` by the instruction `i` (R12): the step ends with the state of its start and the latch
set. The opcode `w` is `i`'s word: every instruction that raises determines its word (R78, log 6). There is no trap return
beside it: no instruction leaves a fault (R272, R276). -/
def raise (k : FaultKind) (i : Instr) (addr : Option Nat) (s : State) : Result :=
  .next (s.undoAdvance.latch k (some (encode i)) addr)

/-- `if c: PC <- PC + 2` (R130-R134). -/
def skipIf (c : Bool) (s : State) : Result := .next (if c then s.advance else s)

end Sys2Proof.Machine
end

