-- ==== Sys2Proof/Machine/Flags.lean ====
section
/-! DEFINITION. The flag computations (R23): VF is V[15], and a flag is exactly 0 or 1 (R140). -/

namespace Sys2Proof.Machine

/-- VF (R23). -/
def VF : RegIx := 15

/-- A flag's byte (R140). -/
def flagByte (b : Bool) : Byte := if b then 1 else 0

/-- Carry out of bit 7 (R148). -/
def carry (p q : Byte) : Bool := p.toNat + q.toNat > 255

/-- No borrow in `p - q` (R149, R151; I5: 1 when equal). -/
def noBorrow (p q : Byte) : Bool := p.toNat ≥ q.toNat

/-- The bit a right shift drops (R150). -/
def lowBit (p : Byte) : Bool := p.getLsbD 0

/-- The bit a left shift drops (R152). -/
def highBit (p : Byte) : Bool := p.getLsbD 7

/-- Write the result to V[x] and, last, the flag to VF (R141, D11): with x = F the flag stays. -/
def State.setResultFlag (s : State) (x : RegIx) (v : Byte) (flag : Bool) : State :=
  (s.setReg x v).setReg VF (flagByte flag)

end Sys2Proof.Machine
end

