-- ==== Sys2Proof/Machine/Alu.lean ====
section
/-! DEFINITION. Register loads and arithmetic (43_alu.md). Every meaning reads its sources in the state it is given, before
any write (R141). -/

namespace Sys2Proof.Machine

/-- LD Vx, nn (R142). -/
def execLdImm (x : RegIx) (nn : Byte) (s : State) : Result := .next (s.setReg x nn)

/-- ADD Vx, nn (R143): no flag. -/
def execAddImm (x : RegIx) (nn : Byte) (s : State) : Result :=
  .next (s.setReg x (BitVec.ofNat 8 (((s.reg x).toNat + nn.toNat) % 256)))

/-- LD Vx, Vy (R144). -/
def execLdReg (x y : RegIx) (s : State) : Result := .next (s.setReg x (s.reg y))

/-- OR Vx, Vy (R145): VF is left as it was (D12). -/
def execOrReg (x y : RegIx) (s : State) : Result := .next (s.setReg x (s.reg x ||| s.reg y))

/-- AND Vx, Vy (R146). -/
def execAndReg (x y : RegIx) (s : State) : Result := .next (s.setReg x (s.reg x &&& s.reg y))

/-- XOR Vx, Vy (R147). -/
def execXorReg (x y : RegIx) (s : State) : Result := .next (s.setReg x (s.reg x ^^^ s.reg y))

/-- ADD Vx, Vy (R148). -/
def execAddReg (x y : RegIx) (s : State) : Result :=
  .next (s.setResultFlag x (BitVec.ofNat 8 (((s.reg x).toNat + (s.reg y).toNat) % 256)) (carry (s.reg x) (s.reg y)))

/-- SUB Vx, Vy (R149). -/
def execSub (x y : RegIx) (s : State) : Result :=
  .next (s.setResultFlag x (s.reg x - s.reg y) (noBorrow (s.reg x) (s.reg y)))

/-- SHR Vx (R150): y is ignored (D10). -/
def execShr (x _y : RegIx) (s : State) : Result :=
  .next (s.setResultFlag x (s.reg x >>> 1) (lowBit (s.reg x)))

/-- SUBN Vx, Vy (R151). -/
def execSubn (x y : RegIx) (s : State) : Result :=
  .next (s.setResultFlag x (s.reg y - s.reg x) (noBorrow (s.reg y) (s.reg x)))

/-- SHL Vx (R152): y is ignored (D10). -/
def execShl (x _y : RegIx) (s : State) : Result :=
  .next (s.setResultFlag x (s.reg x <<< 1) (highBit (s.reg x)))

/-- RND Vx, nn (R153): one draw of the oracle, masked. The draw is a free value (log 3). -/
def execRnd (x : RegIx) (nn : Byte) (s : State) : Result :=
  .next (s.countDraw.setReg x (Config.rngDraw s.rngDraws &&& nn))

end Sys2Proof.Machine
end

