-- ==== Sys2Proof/Machine/Operands.lean ====
section
/-! DEFINITION. The operand forms: zero-extended immediates (R73) and the one addressing mode, indexed by I (R170, R171). -/

namespace Sys2Proof.Machine

/-- `zext_16(nnn)` (R73). -/
def zextNNN (nnn : BitVec 12) : Word := BitVec.ofNat 16 nnn.toNat

/-- Whether an access of `k` bytes at I stays in memory: `I + k - 1 <= 0xFFF` when `k >= 1`; no byte, no address (R55, R171). -/
def State.indexInRange (s : State) (k : Nat) : Bool := k == 0 || s.I.toNat + k - 1 ≤ 0xFFF

/-- The address a data access fails at: the lowest of its addresses that is 0x1000 or more (R55, R171). -/
def State.indexFaultAddr (s : State) : Nat := max s.I.toNat 0x1000

/-- The address of an indexed access (R170): a store's first byte is here, and it writes upwards. -/
def State.indexAddr (s : State) : Nat := s.I.toNat

/-- Run `f` if the `k` bytes at I are in memory, else raise `MemoryOutOfBounds` (R171). The check comes before any write (R56). -/
def withIndexed (k : Nat) (i : Instr) (f : State → Result) (s : State) : Result :=
  if s.indexInRange k then f s else raise .memoryOutOfBounds i (some s.indexFaultAddr) s

/-- The bytes V[0] .. V[x] (R176). -/
def State.regsUpTo (s : State) (x : RegIx) : List Byte := s.V.toList.take (x.val + 1)

/-- `V[i] <- MemRead(I + i, 1)` for i in 0 .. x (R177). -/
def State.loadRegsUpTo (s : State) (x : RegIx) : State :=
  { s with V := Vector.ofFn fun i : Fin 16 => if i ≤ x then s.readByte (s.indexAddr + i.val) else s.reg i }

/-- The decimal digits of a byte: hundreds, tens, ones (R175). -/
def bcdDigits (v : Byte) : List Byte :=
  [BitVec.ofNat 8 (v.toNat / 100), BitVec.ofNat 8 (v.toNat / 10 % 10), BitVec.ofNat 8 (v.toNat % 10)]

/-- Run `f` on the key index in V[x], or raise `KeyIndexOutOfRange` when it is above 0xF (R212). -/
def withKeyIndex (x : RegIx) (i : Instr) (f : Fin 16 → State → Result) (s : State) : Result :=
  if h : (s.reg x).toNat < 16 then f ⟨(s.reg x).toNat, h⟩ s
  else raise .keyIndexOutOfRange i (some (s.reg x).toNat) s

end Sys2Proof.Machine
end

