-- ==== Sys2Proof/Machine/Display.lean ====
section
/-! DEFINITION. The display and the sprite XOR-blit engine (45_display.md). -/

namespace Sys2Proof.Machine

/-- What the blit works on: the display so far, and whether an on cell has been turned off (R193, R194). -/
structure BlitState where
  display : Display
  collided : Bool
  deriving DecidableEq, Repr

/-- The row a sprite row lands on: `(cy + row) mod 32` (R193). -/
def blitRowAt (cy : Byte) (row : Nat) : Fin displayH := ⟨(cy.toNat + row) % displayH, Nat.mod_lt _ (by decide)⟩

/-- The column a sprite column lands on: `(cx + col) mod 64` (R193). -/
def blitColAt (cx : Byte) (col : Nat) : Fin displayW := ⟨(cx.toNat + col) % displayW, Nat.mod_lt _ (by decide)⟩

/-- The body of R193's inner loop: sprite column `col` is bit `7 - col` of the row's byte. -/
def blitPixel (cx cy : Byte) (row : Nat) (b : Byte) (d : BlitState) (col : Nat) : BlitState :=
  if b.getLsbD (7 - col) then
    { display := toggleCell d.display (blitRowAt cy row) (blitColAt cx col)
      collided := d.collided || cell d.display (blitRowAt cy row) (blitColAt cx col) }
  else d

/-- R193's inner loop: the eight columns of one sprite row. -/
def blitRow (cx cy : Byte) (row : Nat) (b : Byte) (d : BlitState) : BlitState :=
  (List.range 8).foldl (blitPixel cx cy row b) d

/-- R193's outer loop over the sprite's bytes, row numbers from `row` upwards. -/
def blitRows (cx cy : Byte) : Nat → List Byte → BlitState → BlitState
  | _, [], d => d
  | row, b :: bs, d => blitRows cx cy (row + 1) bs (blitRow cx cy row b d)

/-- R193's blit of a sprite's bytes at (cx, cy): VF starts at 0 and ends as the collision flag; the display is dirty. -/
def State.blit (s : State) (cx cy : Byte) (sprite : List Byte) : State :=
  let d := blitRows cx cy 0 sprite ⟨s.display, false⟩
  (s.setDisplay d.display true).setReg VF (flagByte d.collided)

/-- CLS (R191). -/
def execCls (s : State) : Result := .next (s.setDisplay clearDisplay true)

/-- DRW Vx, Vy, n (R192): the coordinates are read before VF is cleared. -/
def execDrw (x y : RegIx) (n : Fin 16) (s : State) : Result :=
  withIndexed n.val (.drw x y n) (fun s => .next (s.blit (s.reg x) (s.reg y) (s.readRun s.indexAddr n.val))) s

end Sys2Proof.Machine
end

