-- ==== Sys2Proof/Machine/Flow.lean ====
section
/-! DEFINITION. Control transfer (41_flow.md). Each meaning runs after the fetch has set PC to a + 2 (R14). -/

namespace Sys2Proof.Machine

/-- RET (R110). -/
def execRet (s : State) : Result :=
  match s.stack.getLast? with
  | none => raise .stackUnderflow .ret none s
  | some v => .next ((s.setStack s.stack.dropLast).setPC v)

/-- SYS nnn (R111): no effect. -/
def execSys (_nnn : BitVec 12) (s : State) : Result := .next s

/-- JP nnn (R112). -/
def execJp (nnn : BitVec 12) (s : State) : Result := .next (s.setPC (zextNNN nnn))

/-- CALL nnn (R113): the pushed value is PC, already advanced. -/
def execCall (nnn : BitVec 12) (s : State) : Result :=
  if s.stack.length ≥ stackLimit then raise .stackOverflow (.call nnn) none s
  else .next ((s.push s.PC).setPC (zextNNN nnn))

/-- JP V0, nnn (R114): the sum is not reduced; it is at most 0x10FE. -/
def execJpV0 (nnn : BitVec 12) (s : State) : Result :=
  .next (s.setPC (BitVec.ofNat 16 (nnn.toNat + (s.reg 0).toNat)))

end Sys2Proof.Machine
end

