-- ==== Sys2Proof/Machine/Index.lean ====
section
/-! DEFINITION. The index register and memory (44_index_memory.md). -/

namespace Sys2Proof.Machine

/-- LD I, nnn (R172). -/
def execLdI (nnn : BitVec 12) (s : State) : Result := .next (s.setI (zextNNN nnn))

/-- ADD I, Vx (R173): modulo 4096, no flag. -/
def execAddI (x : RegIx) (s : State) : Result :=
  .next (s.setI (BitVec.ofNat 16 ((s.I.toNat + (s.reg x).toNat) % 4096)))

/-- LD F, Vx (R174): the whole byte, not its low nibble (I6). -/
def execLdF (x : RegIx) (s : State) : Result :=
  .next (s.setI (BitVec.ofNat 16 (fontBase + (s.reg x).toNat * 5)))

/-- LD B, Vx (R175). -/
def execLdB (x : RegIx) (s : State) : Result :=
  withIndexed 3 (.ldB x) (fun s => .next (s.writeRun s.indexAddr (bcdDigits (s.reg x)))) s

/-- LD [I], Vx (R176): I is unchanged (D13). -/
def execLdMemX (x : RegIx) (s : State) : Result :=
  withIndexed (x.val + 1) (.ldMemX x) (fun s => .next (s.writeRun s.indexAddr (s.regsUpTo x))) s

/-- LD Vx, [I] (R177): I is unchanged (D13). -/
def execLdXMem (x : RegIx) (s : State) : Result :=
  withIndexed (x.val + 1) (.ldXMem x) (fun s => .next (s.loadRegsUpTo x)) s

end Sys2Proof.Machine
end

