-- ==== Sys2Proof/Machine/KeysTimers.lean ====
section
/-! DEFINITION. Keys and timers (46_timers_keys.md). -/

namespace Sys2Proof.Machine

/-- SKP Vx (R210). -/
def execSkp (x : RegIx) (s : State) : Result :=
  withKeyIndex x (.skp x) (fun k s => skipIf (s.keys.get k) s) s

/-- SKNP Vx (R211). -/
def execSknp (x : RegIx) (s : State) : Result :=
  withKeyIndex x (.sknp x) (fun k s => skipIf (!s.keys.get k) s) s

/-- LD Vx, DT (R213): DT before this step's tick. -/
def execLdXDt (x : RegIx) (s : State) : Result := .next (s.setReg x s.DT)

/-- LD DT, Vx (R214): the tick of the same step follows. -/
def execLdDtX (x : RegIx) (s : State) : Result := .next (s.setDT (s.reg x))

/-- LD ST, Vx (R215). -/
def execLdStX (x : RegIx) (s : State) : Result := .next (s.setST (s.reg x))

/-- LD Vx, K (R216): V[x] is written later, by the host's key delivery (R234). -/
def execLdXK (x : RegIx) (s : State) : Result := .next (s.setAwaiting (some x))

end Sys2Proof.Machine
end

