-- ==== Sys2Proof/Machine/Skip.lean ====
section
/-! DEFINITION. Conditional skips (42_skip.md). -/

namespace Sys2Proof.Machine

/-- SE Vx, nn (R130). -/
def execSeImm (x : RegIx) (nn : Byte) (s : State) : Result := skipIf (s.reg x == nn) s

/-- SNE Vx, nn (R131). -/
def execSneImm (x : RegIx) (nn : Byte) (s : State) : Result := skipIf (s.reg x != nn) s

/-- SE Vx, Vy (R132). -/
def execSeReg (x y : RegIx) (s : State) : Result := skipIf (s.reg x == s.reg y) s

/-- SNE Vx, Vy (R133). -/
def execSneReg (x y : RegIx) (s : State) : Result := skipIf (s.reg x != s.reg y) s

end Sys2Proof.Machine
end

