-- ==== Sys2Proof/Machine/Cycle.lean ====
section
/-! DEFINITION. The phases of a step (40_step_cycle.md): the wait, the fetch, running a decoded instruction, the whole cycle. -/

namespace Sys2Proof.Machine

/-- Whether a step waits for a key: R91's corrected mode with awaiting_key set. In reference mode awaiting_key has no effect. -/
def State.waits (s : State) : Bool := s.awaitingKey.isSome && s.config.keyWaitMode == .corrected

/-- What a waiting step does (R91, D17). -/
def State.waitStep (s : State) : State := if s.config.waitTicksTimers then s.tick else s

/-- Whether both bytes of a fetch are in memory (R55, R92). PC may be odd (R54). -/
def State.fetchInRange (s : State) : Bool := s.PC.toNat ≤ 0xFFE

/-- The opcode at PC, big-endian, as memory stands at the start of the step (R52, R92). -/
def State.fetchWord (s : State) : Word := opcodeOfBytes (s.readByte s.PC.toNat) (s.readByte (s.PC.toNat + 1))

/-- The tick follows an instruction that did not fault (R95, R97). -/
def State.afterExec (t : State) : State := if t.fault.isSome then t else t.tick

/-- Run a decoded instruction in the state of the step's start: the fetch's advance, the instruction, the tick (R92, R94, R95). -/
def runInstr (i : Instr) (s : State) : Result :=
  match exec i s.advance with
  | .next t => .next t.afterExec
  | .fault f => .fault f
  | .refused r => .refused r

/-- R98 from the fetch on, in R274's order: fetch bounds, decode, the instruction. -/
def fetchAndRun (s : State) : Result :=
  if s.fetchInRange then
    match decode s.fetchWord with
    | .ok i => runInstr i s
    | .error _ => .next (s.latch .illegalOpcode (some s.fetchWord) none)
  else .next (s.latch .memoryOutOfBounds none (some (max s.PC.toNat 0x1000)))

/-- The whole step (R98), in R274's order: a latched fault, the corrected-mode wait, then fetch and run. -/
def cycle (s : State) : Result :=
  match s.fault with
  | some r => .fault (.faulted r)
  | none => if s.waits then .next s.waitStep else fetchAndRun s

/-- The results `step()` returns to the host (R96). -/
inductive StepResult where
  | ok
  | waiting
  | fault (record : FaultRecord)
  | faulted (record : FaultRecord)
  deriving DecidableEq, Repr

/-- What `step()` returns when it leaves the machine in `t`, no fault having been latched before (R96). -/
def State.resultAfter (t : State) : StepResult :=
  match t.fault with
  | some r => .fault r
  | none => .ok

/-- What `step()` returns in a state (R96); none only where an instruction has no meaning. -/
def stepResult (s : State) : Option StepResult :=
  if s.fault.isNone && s.waits then some .waiting
  else
    match cycle s with
    | .next t => some t.resultAfter
    | .fault (.faulted r) => some (.faulted r)
    | .refused _ => none

/-- Store a word where the next step fetches it: at PC, high byte first (R52). -/
def State.placeWord (s : State) (w : Word) : State := s.writeRun s.PC.toNat (bytesOfOpcode w)

end Sys2Proof.Machine
end

