-- ==== Sys2Proof/Machine/Step.lean ====
section
/-! DEFINITION. `step()`, the core's only transition (R98, R99), and how a word is placed for it to fetch. -/

namespace Sys2Proof.Machine

/-- One call of `step()` (R98). -/
def step (s : State) : Host.Outcome State Fault Refusal := cycle s

/-- `s` with an opcode-table word stored at PC (log 9, log 10). -/
def State.withFetchWord (s : State) (nbits w : Nat) : State := s.placeWord (tableOpcode nbits w)

end Sys2Proof.Machine
end

