-- ==== Sys2Proof/Machine/Serializer.lean ====
section
/-! DEFINITION. The state snapshot and restore serializer (49_state_serializer.md). -/

namespace Sys2Proof.Machine

/-- A 16-bit field of the blob, big-endian (R252, D1). -/
def be16 (w : Word) : List Byte := [w.extractLsb' 8 8, w.extractLsb' 0 8]

/-- The eight bits of a byte, `f 0` in bit 0. -/
def packByte (f : Nat → Bool) : Byte :=
  BitVec.ofNat 8 ((List.range 8).map fun k => if f k then 2 ^ k else 0).sum

/-- The bytes before `memory`: the magic "C8SV" and the version 0x01 (R252, R259). -/
def blobHeader : List Byte := [0x43, 0x38, 0x53, 0x56, 0x01]

/-- R254: entry `e` of 16, oldest first, unused entries 0. -/
def State.stackBytes (s : State) : List Byte := (List.range stackLimit).flatMap fun e => be16 (s.stack.getD e 0)

/-- Latch `k`, as a Boolean for any number. -/
def State.keyAt (s : State) (k : Nat) : Bool := s.keys.toList.getD k false

/-- R255: bit `k` of the mask is `keys[k]`; the high byte comes first. -/
def State.keysBytes (s : State) : List Byte := [packByte fun k => s.keyAt (k + 8), packByte fun k => s.keyAt k]

/-- R255: a register index, or 0xFF for none. -/
def awaitingByte : Option RegIx → Byte
  | some r => BitVec.ofNat 8 r.val
  | none => 0xFF

/-- R253: the eight bytes of a row, column 8j in bit 7 of byte j. -/
def rowBytes (row : Vector Bool displayW) : List Byte :=
  (List.range 8).map fun j => packByte fun k => row.toList.getD (8 * j + (7 - k)) false

/-- R253: the rows in order. -/
def State.displayBytes (s : State) : List Byte := s.display.toList.flatMap rowBytes

/-- The blob but for its checksum: R252's table from top to bottom. -/
def State.saveBody (s : State) : List Byte :=
  blobHeader ++ s.readRun 0 memSize ++ s.V.toList ++ be16 s.I ++ be16 s.PC ++ [s.DT, s.ST, BitVec.ofNat 8 s.stack.length]
    ++ s.stackBytes ++ s.keysBytes ++ [awaitingByte s.awaitingKey] ++ s.displayBytes

/-- R256: the sum of the bytes modulo 65536. -/
def checksum (body : List Byte) : Word := BitVec.ofNat 16 (body.map BitVec.toNat).sum

/-- `save_state()` (R250, R252): the 4417 bytes of the blob. No state changes. -/
def State.saveState (s : State) : List Byte := s.saveBody ++ be16 (checksum s.saveBody)

/-- The byte of a blob at an offset. -/
def blobByte (b : List Byte) (k : Nat) : Byte := b.getD k 0

/-- The big-endian 16-bit field of a blob at an offset. -/
def blobWord (b : List Byte) (k : Nat) : Word := blobByte b k ++ blobByte b (k + 1)

/-- The stack depth `d` of a blob (R252). -/
def blobDepth (b : List Byte) : Nat := (blobByte b 4123).toNat

/-- Whether `load_state` accepts a blob: none of R256's reasons for `StateCorrupt` holds. -/
def blobAccepted (b : List Byte) : Bool :=
  b.length == 4417
    && b.take 4 == [0x43, 0x38, 0x53, 0x56]
    && blobByte b 4 == 0x01
    && blobWord b 4415 == checksum (b.take 4415)
    && (blobWord b 4117).toNat ≤ 0x0FFF
    && blobDepth b ≤ 16
    && (List.range stackLimit).all (fun e => e < blobDepth b || blobWord b (4124 + 2 * e) == 0)
    && ((blobByte b 4158).toNat ≤ 0x0F || blobByte b 4158 == 0xFF)

/-- R255's byte back to a register index or none. -/
def awaitingOfByte (v : Byte) : Option RegIx := if h : v.toNat < 16 then some ⟨v.toNat, h⟩ else none

/-- R257: every field of R251 from an accepted blob, display_dirty set, the fault latch cleared. Nothing else changes: neither
the parameters nor the oracle. -/
def State.restore (s : State) (b : List Byte) : State :=
  { s with
    memory := Memory.ofBytes s.config.font 0 ((b.drop 5).take memSize)
    V := Vector.ofFn fun i => blobByte b (4101 + i.val)
    I := blobWord b 4117
    PC := blobWord b 4119
    DT := blobByte b 4121
    ST := blobByte b 4122
    stack := (List.range (blobDepth b)).map fun e => blobWord b (4124 + 2 * e)
    keys := Vector.ofFn fun k => (blobWord b 4156).getLsbD k.val
    awaitingKey := awaitingOfByte (blobByte b 4158)
    display := Vector.ofFn fun r => Vector.ofFn fun c =>
      (blobByte b (4159 + 8 * r.val + c.val / 8)).getLsbD (7 - c.val % 8)
    displayDirty := true
    fault := none }

/-- `load_state(blob)` (R256, R257): a refused blob changes nothing. -/
def State.loadState (b : List Byte) (s : State) : Except HostError State :=
  if blobAccepted b then .ok (s.restore b) else .error .stateCorrupt

end Sys2Proof.Machine
end

