-- ==== Sys2Proof/Machine/HostOps.lean ====
section
/-! DEFINITION. The host's operations (48_host_interface.md, R290), each atomic and between steps (R58, R240). A refused
operation answers its error and changes nothing (R271). -/

namespace Sys2Proof.Machine

/-- `reset()` (R290): every field at its value of R41; neither the parameters nor the oracle change (R36). -/
def State.resetOp (s : State) : State := { State.construct s.config with rngDraws := s.rngDraws }

/-- `load_program(bytes)` (R230, R231): the size is checked before the reset. -/
def State.loadProgram (rom : List Byte) (s : State) : Except HostError State :=
  if rom.length > maxRom then .error .romTooLarge else .ok (s.resetOp.writeRun progBase rom)

/-- Key delivery (R234). -/
def State.deliverKey (s : State) (k : Fin 16) : State :=
  match s.awaitingKey with
  | some r => (s.setReg r (BitVec.ofNat 8 k.val)).setAwaiting none
  | none => s

/-- `key_down(k)` (R232, R234, R235). -/
def State.keyDown (k : Nat) (s : State) : Except HostError State :=
  if h : k < 16 then .ok ((s.setKey ⟨k, h⟩ true).deliverKey ⟨k, h⟩) else .error .badKeyIndex

/-- `key_up(k)` (R233, R235). -/
def State.keyUp (k : Nat) (s : State) : Except HostError State :=
  if h : k < 16 then .ok (s.setKey ⟨k, h⟩ false) else .error .badKeyIndex

/-- `read_display()` (R236): what the host gets back; nothing changes. -/
def State.readDisplay (s : State) : Display × Bool := (s.display, s.displayDirty)

/-- `clear_dirty()` (R237). -/
def State.clearDirty (s : State) : State := s.setDisplay s.display false

/-- The host's operations beside `step()` (R241's table). -/
inductive HostOp where
  | reset
  | loadProgram (rom : List Byte)
  | keyDown (k : Nat)
  | keyUp (k : Nat)
  | readDisplay
  | clearDirty
  | saveState
  | loadState (blob : List Byte)
  deriving DecidableEq, Repr

/-- What the core changes at a host operation, or the error it answers (R241). -/
def HostOp.perform (op : HostOp) (s : State) : Except HostError State :=
  match op with
  | .reset => .ok s.resetOp
  | .loadProgram rom => s.loadProgram rom
  | .keyDown k => s.keyDown k
  | .keyUp k => s.keyUp k
  | .readDisplay => .ok s
  | .clearDirty => .ok s.clearDirty
  | .saveState => .ok s
  | .loadState blob => s.loadState blob

/-- The code of a step fault (R270). -/
def FaultKind.code : FaultKind → Nat
  | .stackUnderflow => 2
  | .stackOverflow => 3
  | .memoryOutOfBounds => 4
  | .illegalOpcode => 6
  | .keyIndexOutOfRange => 7

/-- The code of a host error (R270). -/
def HostError.code : HostError → Nat
  | .romTooLarge => 1
  | .stateCorrupt => 5
  | .badKeyIndex => 8

end Sys2Proof.Machine
end

