-- ==== Sys2Proof/Machine/Driver.lean ====
section
/-! DEFINITION. The driver's contract (R238, R239): what the host does with the core in one display frame. -/

namespace Sys2Proof.Machine

/-- Up to `n` steps; a step that latches a fault, or that gives no next state, is the last (R239). -/
def runSteps : Nat → State → State
  | 0, s => s
  | n + 1, s =>
    match step s with
    | .next t => if t.fault.isSome then t else runSteps n t
    | .fault _ => s
    | .refused _ => s

/-- One frame (R238): `CYCLES_PER_FRAME` steps, then check and clear the dirty flag; the display to render, if it was dirty. -/
def frame (s : State) : Option Display × State :=
  let t := runSteps s.config.cyclesPerFrame s
  (if t.readDisplay.2 then some t.readDisplay.1 else none, t.clearDirty)

end Sys2Proof.Machine
end

