-- ==== Sys2Proof/Safety.lean ====
section
/-! DEFINITION. What counts as a safe state and a safe run, in the terms the statements use. -/

namespace Sys2Proof.Machine

/-- Whether a fault record is one R270's table allows: each kind with its raiser's opcode and its `addr`. -/
def FaultRecord.allowed (r : FaultRecord) : Prop :=
  match r.kind with
  | .stackUnderflow => r.opcode = some 0x00EE ∧ r.addr = none
  | .stackOverflow => (∃ nnn, r.opcode = some (encode (.call nnn))) ∧ r.addr = none
  | .memoryOutOfBounds =>
    (r.opcode = none ∧ 0xFFE < r.pc.toNat ∧ r.addr = some (max r.pc.toNat 0x1000)) ∨
    ((∃ x y n, r.opcode = some (encode (.drw x y n))) ∨ (∃ x, r.opcode = some (encode (.ldB x)))
      ∨ (∃ x, r.opcode = some (encode (.ldMemX x))) ∨ (∃ x, r.opcode = some (encode (.ldXMem x)))) ∧ r.addr = some 0x1000
  | .illegalOpcode => (∃ w, r.opcode = some w ∧ decode w = .error (.illegal w)) ∧ r.addr = none
  | .keyIndexOutOfRange =>
    ((∃ x, r.opcode = some (encode (.skp x))) ∨ (∃ x, r.opcode = some (encode (.sknp x))))
      ∧ ∃ k : Byte, 0x0F < k.toNat ∧ r.addr = some k.toNat

/-- The invariant of every reachable state. -/
structure State.Inv (s : State) : Prop where
  /-- memory is in canonical form, inside 0x000-0xFFF (R50) -/
  memory_wf : s.memory.wf s.config.font
  /-- R25 -/
  index_bound : s.I.toNat < 0x1000
  /-- R27 -/
  stack_bound : s.stack.length ≤ stackLimit
  /-- a latched record is of the instruction PC holds (R97), and one of R270's -/
  fault_here : ∀ r, s.fault = some r → r.pc = s.PC ∧ r.allowed

/-- The bound of R26 on what instructions write to PC, with the bound on the return addresses that RET writes there. It is no
invariant of `load_state`, which may restore any PC and any stack entry (R256). -/
structure State.PCBounded (s : State) : Prop where
  pc_bound : s.PC.toNat ≤ 0x10FE
  return_bound : ∀ v ∈ s.stack, v.toNat ≤ 0x1000

/-- The states of a machine that is constructed (R291), then stepped and operated by the host in any order (R241). -/
inductive Reachable : State → Prop where
  | construct (c : Config) : Reachable (State.construct c)
  | step {s t : State} : Reachable s → step s = .next t → Reachable t
  | op {s t : State} (o : HostOp) : Reachable s → o.perform s = .ok t → Reachable t

/-- `k` steps lead from one state to another. -/
def stepsTo : Nat → State → State → Prop
  | 0, s, t => s = t
  | k + 1, s, t => ∃ u, step s = .next u ∧ stepsTo k u t

/-- Whether the next step fetches an instruction: no fault latched, no wait, both bytes in memory (R274's first three checks). -/
structure State.Fetches (s : State) : Prop where
  no_fault : s.fault = none
  no_wait : s.waits = false
  in_range : s.PC.toNat ≤ 0xFFE

/-- The next step fetches the instruction `i`. -/
structure State.FetchesInstr (s : State) (i : Instr) : Prop extends s.Fetches where
  decoded : decode (opcodeOfBytes (s.readByte s.PC.toNat) (s.readByte (s.PC.toNat + 1))) = .ok i

/-- Every byte of memory reads as before. -/
def SameMemory (s t : State) : Prop := ∀ a, t.readByte a = s.readByte a

/-- Every byte outside the `n` from `a` upwards reads as before. -/
def StoresOnly (s t : State) (a n : Nat) : Prop := ∀ b, b < a ∨ a + n ≤ b → t.readByte b = s.readByte b

/-- Everything but the registers V is as before. -/
def OnlyV (s t : State) : Prop := t = { s with V := t.V }

/-- Whether a set bit of the `n`-row sprite at I, drawn at (cx, cy), lands on the cell in row `r`, column `c`: some sprite row
`row` and column `col` with bit `7 - col` of `memory[I + row]` set, `r = (cy + row) mod 32`, `c = (cx + col) mod 64` (R193). -/
def SpriteSets (s : State) (cx cy : Byte) (n : Nat) (r : Fin displayH) (c : Fin displayW) : Prop :=
  ∃ row col, row < n ∧ col < 8 ∧ (s.readByte (s.I.toNat + row)).getLsbD (7 - col) = true
    ∧ r.val = (cy.toNat + row) % 32 ∧ c.val = (cx.toNat + col) % 64

/-- The registers an instruction may write: V[x] for the instructions R22 lists (V0 to V[x] for Fx65), and VF for the
flag-writing ones (R23). -/
def writesReg (i : Instr) (j : RegIx) : Bool :=
  match i with
  | .ldImm x _ | .addImm x _ | .ldReg x _ | .orReg x _ | .andReg x _ | .xorReg x _ | .rnd x _ | .ldXDt x => j == x
  | .addReg x _ | .sub x _ | .shr x _ | .subn x _ | .shl x _ => j == x || j == 15
  | .drw _ _ _ => j == 15
  | .ldXMem x => j ≤ x
  | .cls | .ret | .sys _ | .jp _ | .call _ | .seImm _ _ | .sneImm _ _ | .seReg _ _ | .sneReg _ _ | .ldI _ | .jpV0 _
  | .skp _ | .sknp _ | .ldDtX _ | .ldStX _ | .ldXK _ | .addI _ | .ldF _ | .ldB _ | .ldMemX _ => false

/-- Registers other than `x` are as before. -/
def OnlyReg (s t : State) (x : RegIx) : Prop := ∀ j, j ≠ x → t.reg j = s.reg j

end Sys2Proof.Machine
end

