-- ==== Sys2Proof/Certificates/Slice0/Obligations.lean ====
section
/-! DEFINITION. The statements for the provers. Where one speaks of `exec`, `s` is the state the fetch at `a` leaves, so
`s.PC = a + 2` (R14). D<n> names a decision that the spec marks as its own choice (92_eei_decisions.md); the model follows all of
them (log 12), and a statement that rests on one says so. -/

open Sys2Proof Sys2Proof.Machine

/-! ### Encoding (30_encoding.md) -/

/-- R72, R74, R75: decoding an instruction's word gives the instruction back, with every operand at every value. That SYS,
SHR and SHL have a field to give back which the meaning ignores is log 14 (DEDUCED). -/
def Obligations.DecodeOfEncode : Prop :=
  ∀ i : Instr, i.wf = true → decode (encode i) = .ok i

/-- R74, R76: what decodes is well-formed, and encodes to the word it was read from; so no two words mean one instruction. The
clause rests on the model's keeping in the term the fields that R78 says SYS, SHR and SHL ignore (log 14, DEDUCED: the spec
itself does not say that an instruction determines its word), and, for SE and SNE of two registers, on 5xyn and 9xyn with
n != 0 being illegal (decision D9, log 12). -/
def Obligations.EncodeOfDecode : Prop :=
  ∀ (w : Word) (i : Instr), decode w = .ok i → i.wf = true ∧ encode i = w

/-- R74 against R75: the case tree of decode and the table's rows of match and mask agree on every word. That the words which fit
no row are rejected is the spec's own choice: R74's `Illegal` arms are decisions D8 and D9 (log 12). -/
def Obligations.DecodeFollowsOpcodeTable : Prop :=
  ∀ w : Word, (match decode w with | .ok i => some i.mnemonic | .error _ => none) = tableMnemonic w

/-- R93, with the list of R77: which words are illegal, and that executing one raises `IllegalOpcode` with no other effect
(decisions D8, D9, D5, log 12). -/
def Obligations.ReservedWordsRaiseIllegalOpcode : Prop :=
  (∀ w : Word, decode w = .error (.illegal w) ↔
    ((fieldOp w = 0x5 ∨ fieldOp w = 0x9) ∧ field w 3 0 ≠ 0) ∨
    (fieldOp w = 0x8 ∧ field w 3 0 ∈ [0x8, 0x9, 0xA, 0xB, 0xC, 0xD, 0xF]) ∨
    (fieldOp w = 0xE ∧ field w 7 0 ∉ [0x9E, 0xA1]) ∨
    (fieldOp w = 0xF ∧ field w 7 0 ∉ [0x07, 0x0A, 0x15, 0x18, 0x1E, 0x29, 0x33, 0x55, 0x65])) ∧
  (∀ (s : State) (w : Word), s.Fetches → w = opcodeOfBytes (s.readByte s.PC.toNat) (s.readByte (s.PC.toNat + 1)) →
    decode w = .error (.illegal w) →
    step s = .next { s with fault := some ⟨.illegalOpcode, s.PC, some w, none⟩ })

/-- R74: words written out from the patterns of R75 decode to the instructions they stand for (SHL keeps the y it ignores:
log 14, DEDUCED). -/
def Obligations.SampleWordsDecode : Prop :=
  decode 0x00E0 = .ok .cls ∧ decode 0x00E1 = .ok (.sys 0x0E1) ∧ decode 0x3A7B = .ok (.seImm 0xA 0x7B) ∧
  decode 0x8BCE = .ok (.shl 0xB 0xC) ∧ decode 0xA123 = .ok (.ldI 0x123) ∧ decode 0xD12F = .ok (.drw 1 2 0xF) ∧
  decode 0xE6A1 = .ok (.sknp 6) ∧ decode 0xFC65 = .ok (.ldXMem 0xC)

/-! ### The step (40_step_cycle.md, 60_exceptions.md) -/

/-- R92, R93, R94, R95, R97: a step that fetches the instruction `i` is `exec i` in the state with PC two higher, then the tick,
unless the instruction faulted (no tick then: decision D5, log 12; a raised fault is a next state: log 5). -/
def Obligations.StepRunsTheDecodedInstruction : Prop :=
  ∀ (s : State) (i : Instr), s.FetchesInstr i →
    ∃ t, exec i { s with PC := s.PC + 2 } = .next t ∧
      step s = .next (if t.fault = none then
        { t with DT := if t.DT = 0 then 0 else t.DT - 1, ST := if t.ST = 0 then 0 else t.ST - 1 } else t)

/-- R90, R272: a faulted machine takes no step, and only reset, load_program and a successful load_state clear the latch (decision
D6, log 12; that the model stops there is log 5). -/
def Obligations.LatchedFaultStaysUntilResetOrLoad : Prop :=
  ∀ (s : State) (r : FaultRecord), s.fault = some r →
    step s = .fault (.faulted r) ∧ stepResult s = some (.faulted r) ∧
    HostOp.reset.perform s = .ok s.resetOp ∧ s.resetOp.fault = none ∧
    (∀ (rom : List Byte) (t : State), (HostOp.loadProgram rom).perform s = .ok t → t.fault = none) ∧
    (∀ (b : List Byte) (t : State), (HostOp.loadState b).perform s = .ok t → t.fault = none) ∧
    (∀ (o : HostOp) (t : State), o ≠ .reset → (∀ rom, o ≠ .loadProgram rom) → (∀ b, o ≠ .loadState b) →
      o.perform s = .ok t → t.fault = some r)

/-- R91, corrected mode: a waiting step fetches nothing, keeps PC, ticks the timers if WAIT_TICKS_TIMERS, returns Waiting
(decisions D15, D17, log 4). -/
def Obligations.WaitingStepOnlyTicks : Prop :=
  ∀ (s : State) (r : RegIx), s.fault = none → s.awaitingKey = some r → s.config.keyWaitMode = .corrected →
    ∃ t, step s = .next t ∧ stepResult s = some .waiting ∧ t = { s with DT := t.DT, ST := t.ST } ∧
      (s.config.waitTicksTimers = true → t.DT.toNat = s.DT.toNat - 1 ∧ t.ST.toNat = s.ST.toNat - 1) ∧
      (s.config.waitTicksTimers = false → t.DT = s.DT ∧ t.ST = s.ST)

/-- R91, reference mode: awaiting_key has no effect on the step: with another value of it the step is the same but for that
field (decision D15, log 4). -/
def Obligations.ReferenceModeIgnoresAwaitingKey : Prop :=
  ∀ (s t : State) (k : Option RegIx), s.config.keyWaitMode = .reference → step s = .next t →
    ∃ u, step { s with awaitingKey := k } = .next u ∧ u = { t with awaitingKey := u.awaitingKey } ∧
      (u.awaitingKey = t.awaitingKey ∨ (u.awaitingKey = k ∧ t.awaitingKey = s.awaitingKey))

/-- R92: a fetch at PC above 0xFFE raises MemoryOutOfBounds and changes nothing else (decisions D3, D5, log 12). -/
def Obligations.FetchOutOfBoundsFaults : Prop :=
  ∀ s : State, s.fault = none → s.waits = false → 0xFFE < s.PC.toNat →
    step s = .next { s with fault := some ⟨.memoryOutOfBounds, s.PC, none, some (max s.PC.toNat 0x1000)⟩ }

/-- R97: a step that raises a fault leaves every other field as it was, and returns Fault(record) (decision D5, log 12). -/
def Obligations.FaultingStepChangesOnlyTheLatch : Prop :=
  ∀ (s t : State) (r : FaultRecord), step s = .next t → t.fault = some r →
    t = { s with fault := some r } ∧ r.pc = s.PC ∧ stepResult s = some (.fault r)

/-- R95: the tick comes after every instruction that does not fault. That a faulting step leaves both timers is R97's decision
D5 (log 12), and that such a step answers a next state is the model's own form (log 5, DESIGN CHOICE). -/
def Obligations.TickFollowsEveryInstruction : Prop :=
  ∀ (s : State) (i : Instr), s.FetchesInstr i → ∃ t, step s = .next t ∧
    (t.fault = none →
      t.DT.toNat = (match i with | .ldDtX x => (s.reg x).toNat | _ => s.DT.toNat) - 1 ∧
      t.ST.toNat = (match i with | .ldStX x => (s.reg x).toNat | _ => s.ST.toNat) - 1) ∧
    (t.fault ≠ none → t.DT = s.DT ∧ t.ST = s.ST)

/-! ### Control transfer (41_flow.md) and skips (42_skip.md) -/

/-- R110; on an empty stack nothing but the latch changes (decision D5, log 12). -/
def Obligations.RetPopsOrUnderflows : Prop :=
  encode .ret = 0x00EE ∧ ∀ (s : State) (a : Word), s.PC = a + 2 →
    (s.stack = [] →
      exec .ret s = .next { s with PC := a, fault := some ⟨.stackUnderflow, a, some 0x00EE, none⟩ }) ∧
    (∀ vs v, s.stack = vs ++ [v] → exec .ret s = .next { s with stack := vs, PC := v })

/-- R111. -/
def Obligations.SysDoesNothing : Prop :=
  (∀ w : Word, w.toNat < 0x1000 → w ≠ 0x00E0 → w ≠ 0x00EE →
    ∃ nnn : BitVec 12, nnn.toNat = w.toNat ∧ decode w = .ok (.sys nnn) ∧ encode (.sys nnn) = w) ∧
  ∀ (nnn : BitVec 12) (s : State), exec (.sys nnn) s = .next s

/-- R112. -/
def Obligations.JpSetsPC : Prop :=
  ∀ (nnn : BitVec 12) (s : State), (encode (.jp nnn)).toNat = 0x1000 + nnn.toNat ∧
    ∃ t, exec (.jp nnn) s = .next t ∧ t.PC.toNat = nnn.toNat ∧ t = { s with PC := t.PC }

/-- R113; the bound of 16 and the untouched state are decisions D7 and D5 (log 12). -/
def Obligations.CallPushesOrOverflows : Prop :=
  ∀ (nnn : BitVec 12) (s : State) (a : Word), s.PC = a + 2 →
    (encode (.call nnn)).toNat = 0x2000 + nnn.toNat ∧
    (s.stack.length = 16 →
      exec (.call nnn) s = .next { s with PC := a, fault := some ⟨.stackOverflow, a, some (encode (.call nnn)), none⟩ }) ∧
    (s.stack.length < 16 →
      ∃ t, exec (.call nnn) s = .next t ∧ t.PC.toNat = nnn.toNat ∧ t = { s with stack := s.stack ++ [a + 2], PC := t.PC })

/-- R114. That the sum is not reduced is the spec's own inference ("the sum is not reduced mod 4096 [derived: from rule R55,
which forbids wrapping]"), and R26 puts the bound 0x10FE under decisions D2 and D3 (log 12). -/
def Obligations.JpV0AddsV0 : Prop :=
  ∀ (nnn : BitVec 12) (s : State), (encode (.jpV0 nnn)).toNat = 0xB000 + nnn.toNat ∧
    ∃ t, exec (.jpV0 nnn) s = .next t ∧ t.PC.toNat = nnn.toNat + (s.reg 0).toNat ∧ t.PC.toNat ≤ 0x10FE ∧
      t = { s with PC := t.PC }

/-- R130, R131. -/
def Obligations.ImmediateSkips : Prop :=
  ∀ (x : RegIx) (nn : Byte) (s : State),
    (encode (.seImm x nn)).toNat = 0x3000 + 0x100 * x.val + nn.toNat ∧
    (encode (.sneImm x nn)).toNat = 0x4000 + 0x100 * x.val + nn.toNat ∧
    exec (.seImm x nn) s = .next { s with PC := if s.reg x = nn then s.PC + 2 else s.PC } ∧
    exec (.sneImm x nn) s = .next { s with PC := if s.reg x ≠ nn then s.PC + 2 else s.PC }

/-- R132, R133. -/
def Obligations.RegisterSkips : Prop :=
  ∀ (x y : RegIx) (s : State),
    (encode (.seReg x y)).toNat = 0x5000 + 0x100 * x.val + 0x10 * y.val ∧
    (encode (.sneReg x y)).toNat = 0x9000 + 0x100 * x.val + 0x10 * y.val ∧
    exec (.seReg x y) s = .next { s with PC := if s.reg x = s.reg y then s.PC + 2 else s.PC } ∧
    exec (.sneReg x y) s = .next { s with PC := if s.reg x ≠ s.reg y then s.PC + 2 else s.PC }

/-! ### Register loads and arithmetic (43_alu.md) -/

/-- R142, R143. -/
def Obligations.ImmediateLoadAndAdd : Prop :=
  ∀ (x : RegIx) (nn : Byte) (s : State),
    (encode (.ldImm x nn)).toNat = 0x6000 + 0x100 * x.val + nn.toNat ∧
    (encode (.addImm x nn)).toNat = 0x7000 + 0x100 * x.val + nn.toNat ∧
    (∃ t, exec (.ldImm x nn) s = .next t ∧ t.reg x = nn ∧ OnlyReg s t x ∧ OnlyV s t) ∧
    (∃ t, exec (.addImm x nn) s = .next t ∧ (t.reg x).toNat = ((s.reg x).toNat + nn.toNat) % 256 ∧ OnlyReg s t x ∧ OnlyV s t)

/-- R144, R145, R146, R147: no flag is written; VF changes only as the destination (decision D12, log 12). -/
def Obligations.AssignOrAndXor : Prop :=
  ∀ (x y : RegIx) (s : State),
    (encode (.ldReg x y)).toNat = 0x8000 + 0x100 * x.val + 0x10 * y.val ∧
    (encode (.orReg x y)).toNat = 0x8001 + 0x100 * x.val + 0x10 * y.val ∧
    (encode (.andReg x y)).toNat = 0x8002 + 0x100 * x.val + 0x10 * y.val ∧
    (encode (.xorReg x y)).toNat = 0x8003 + 0x100 * x.val + 0x10 * y.val ∧
    (∃ t, exec (.ldReg x y) s = .next t ∧ t.reg x = s.reg y ∧ OnlyReg s t x ∧ OnlyV s t) ∧
    (∃ t, exec (.orReg x y) s = .next t ∧ OnlyReg s t x ∧ OnlyV s t ∧
      ∀ k, (t.reg x).getLsbD k = ((s.reg x).getLsbD k || (s.reg y).getLsbD k)) ∧
    (∃ t, exec (.andReg x y) s = .next t ∧ OnlyReg s t x ∧ OnlyV s t ∧
      ∀ k, (t.reg x).getLsbD k = ((s.reg x).getLsbD k && (s.reg y).getLsbD k)) ∧
    (∃ t, exec (.xorReg x y) s = .next t ∧ OnlyReg s t x ∧ OnlyV s t ∧
      ∀ k, (t.reg x).getLsbD k = ((s.reg x).getLsbD k ^^ (s.reg y).getLsbD k))

/-- R148, with R141's write order: with x = F the flag stays (decision D11, log 12). -/
def Obligations.AddSetsCarry : Prop :=
  ∀ (x y : RegIx) (s : State),
    (encode (.addReg x y)).toNat = 0x8004 + 0x100 * x.val + 0x10 * y.val ∧
    ∃ t, exec (.addReg x y) s = .next t ∧
      (x ≠ 15 → (t.reg x).toNat = ((s.reg x).toNat + (s.reg y).toNat) % 256) ∧
      t.reg 15 = (if 255 < (s.reg x).toNat + (s.reg y).toNat then 1 else 0) ∧
      (∀ j, j ≠ x → j ≠ 15 → t.reg j = s.reg j) ∧ OnlyV s t

/-- R149, R151: VF = 1 exactly when there is no borrow; with x = F the flag stays (decision D11, log 12). That equal operands
borrow nothing is the spec's own reading: "a borrow happens exactly when `p < q`". -/
def Obligations.SubtractionsSetNoBorrow : Prop :=
  ∀ (x y : RegIx) (s : State),
    (encode (.sub x y)).toNat = 0x8005 + 0x100 * x.val + 0x10 * y.val ∧
    (encode (.subn x y)).toNat = 0x8007 + 0x100 * x.val + 0x10 * y.val ∧
    (∃ t, exec (.sub x y) s = .next t ∧
      (x ≠ 15 → ((t.reg x).toNat : Int) = ((s.reg x).toNat - (s.reg y).toNat : Int) % 256) ∧
      t.reg 15 = (if (s.reg y).toNat ≤ (s.reg x).toNat then 1 else 0) ∧
      (∀ j, j ≠ x → j ≠ 15 → t.reg j = s.reg j) ∧ OnlyV s t) ∧
    (∃ t, exec (.subn x y) s = .next t ∧
      (x ≠ 15 → ((t.reg x).toNat : Int) = ((s.reg y).toNat - (s.reg x).toNat : Int) % 256) ∧
      t.reg 15 = (if (s.reg x).toNat ≤ (s.reg y).toNat then 1 else 0) ∧
      (∀ j, j ≠ x → j ≠ 15 → t.reg j = s.reg j) ∧ OnlyV s t)

/-- R150, R152: V[x] is shifted in place, the bit shifted out goes to VF, y is ignored (decisions D10, D11, log 12). -/
def Obligations.ShiftsMoveTheBitOutToVF : Prop :=
  ∀ (x y : RegIx) (s : State),
    (encode (.shr x y)).toNat = 0x8006 + 0x100 * x.val + 0x10 * y.val ∧
    (encode (.shl x y)).toNat = 0x800E + 0x100 * x.val + 0x10 * y.val ∧
    (∃ t, exec (.shr x y) s = .next t ∧
      (x ≠ 15 → (t.reg x).toNat = (s.reg x).toNat / 2) ∧ (t.reg 15).toNat = (s.reg x).toNat % 2 ∧
      (∀ j, j ≠ x → j ≠ 15 → t.reg j = s.reg j) ∧ OnlyV s t) ∧
    (∃ t, exec (.shl x y) s = .next t ∧
      (x ≠ 15 → (t.reg x).toNat = (s.reg x).toNat * 2 % 256) ∧ (t.reg 15).toNat = (s.reg x).toNat / 128 ∧
      (∀ j, j ≠ x → j ≠ 15 → t.reg j = s.reg j) ∧ OnlyV s t)

/-- R153: one draw is taken and masked, whatever the draw is (decision D18; `Config.rngDraw` is a free value and
`rngDraws` the model's own counter of its draws, log 3). -/
def Obligations.RndMasksOneDraw : Prop :=
  ∀ (x : RegIx) (nn : Byte) (s : State),
    (encode (.rnd x nn)).toNat = 0xC000 + 0x100 * x.val + nn.toNat ∧
    ∃ t, exec (.rnd x nn) s = .next t ∧
      (∀ k, (t.reg x).getLsbD k = ((Config.rngDraw s.rngDraws).getLsbD k && nn.getLsbD k)) ∧
      t.rngDraws = s.rngDraws + 1 ∧ OnlyReg s t x ∧ t = { s with V := t.V, rngDraws := t.rngDraws }

/-! ### The index register and memory (44_index_memory.md) -/

/-- R172. -/
def Obligations.LdISetsI : Prop :=
  ∀ (nnn : BitVec 12) (s : State), (encode (.ldI nnn)).toNat = 0xA000 + nnn.toNat ∧
    ∃ t, exec (.ldI nnn) s = .next t ∧ t.I.toNat = nnn.toNat ∧ t = { s with I := t.I }

/-- R173: the index wraps modulo 4096 and VF is not written. -/
def Obligations.AddIWrapsModulo4096 : Prop :=
  ∀ (x : RegIx) (s : State), (encode (.addI x)).toNat = 0xF01E + 0x100 * x.val ∧
    ∃ t, exec (.addI x) s = .next t ∧ t.I.toNat = (s.I.toNat + (s.reg x).toNat) % 4096 ∧ t = { s with I := t.I }

/-- R174: the whole byte V[x], not its low nibble. -/
def Obligations.LdFPointsAtGlyph : Prop :=
  ∀ (x : RegIx) (s : State), (encode (.ldF x)).toNat = 0xF029 + 0x100 * x.val ∧
    ∃ t, exec (.ldF x) s = .next t ∧ t.I.toNat = 0x050 + (s.reg x).toNat * 5 ∧ t = { s with I := t.I }

/-- R175; out of range nothing but the latch changes (decisions D4, D5, log 12). The premise on memory is the invariant `State.Inv` (statement StepKeepsInvariant). -/
def Obligations.LdBStoresDecimalDigits : Prop :=
  ∀ (x : RegIx) (s : State) (a : Word), s.PC = a + 2 →
    (encode (.ldB x)).toNat = 0xF033 + 0x100 * x.val ∧
    (0xFFF < s.I.toNat + 2 → exec (.ldB x) s = .next { s with
      PC := a, fault := some ⟨.memoryOutOfBounds, a, some (encode (.ldB x)), some (max s.I.toNat 0x1000)⟩ }) ∧
    (s.memory.wf s.config.font → s.I.toNat + 2 ≤ 0xFFF → ∃ t, exec (.ldB x) s = .next t ∧
      (t.readByte s.indexAddr).toNat = (s.reg x).toNat / 100 ∧
      (t.readByte (s.indexAddr + 1)).toNat = (s.reg x).toNat / 10 % 10 ∧
      (t.readByte (s.indexAddr + 2)).toNat = (s.reg x).toNat % 10 ∧
      StoresOnly s t s.indexAddr 3 ∧ t = { s with memory := t.memory })

/-- R176: I is unchanged (decision D13), out of range nothing but the latch changes (D4, D5; log 12). -/
def Obligations.LdMemStoresRegisters : Prop :=
  ∀ (x : RegIx) (s : State) (a : Word), s.PC = a + 2 →
    (encode (.ldMemX x)).toNat = 0xF055 + 0x100 * x.val ∧
    (0xFFF < s.I.toNat + x.val → exec (.ldMemX x) s = .next { s with
      PC := a, fault := some ⟨.memoryOutOfBounds, a, some (encode (.ldMemX x)), some (max s.I.toNat 0x1000)⟩ }) ∧
    (s.memory.wf s.config.font → s.I.toNat + x.val ≤ 0xFFF → ∃ t, exec (.ldMemX x) s = .next t ∧
      (∀ j : RegIx, j ≤ x → t.readByte (s.indexAddr + j.val) = s.reg j) ∧
      StoresOnly s t s.indexAddr (x.val + 1) ∧ t = { s with memory := t.memory })

/-- R177: I is unchanged (decision D13), out of range nothing but the latch changes (D4, D5; log 12). -/
def Obligations.LdFromMemLoadsRegisters : Prop :=
  ∀ (x : RegIx) (s : State) (a : Word), s.PC = a + 2 →
    (encode (.ldXMem x)).toNat = 0xF065 + 0x100 * x.val ∧
    (0xFFF < s.I.toNat + x.val → exec (.ldXMem x) s = .next { s with
      PC := a, fault := some ⟨.memoryOutOfBounds, a, some (encode (.ldXMem x)), some (max s.I.toNat 0x1000)⟩ }) ∧
    (s.I.toNat + x.val ≤ 0xFFF → ∃ t, exec (.ldXMem x) s = .next t ∧
      (∀ j : RegIx, j ≤ x → t.reg j = s.readByte (s.I.toNat + j.val)) ∧
      (∀ j : RegIx, x < j → t.reg j = s.reg j) ∧ OnlyV s t)

/-! ### The display (45_display.md) -/

/-- R191. -/
def Obligations.ClsClearsTheDisplay : Prop :=
  encode .cls = 0x00E0 ∧ ∀ s : State, ∃ t, exec .cls s = .next t ∧ (∀ r c, cell t.display r c = false) ∧
    t.displayDirty = true ∧ t = { s with display := t.display, displayDirty := t.displayDirty }

/-- R192 to R195: out of range the draw faults; in range it toggles exactly the cells the sprite's set bits land on, sets VF to
whether one of them was on, marks the display dirty, and changes nothing else (the range check: decisions D4, D5, log 12). That
the coordinates wrap at the start (R193) and the exact form of the collision (R194) the spec marks as its own inferences. -/
def Obligations.DrwTogglesTheSprite : Prop :=
  ∀ (x y : RegIx) (n : Fin 16) (s : State) (a : Word), s.PC = a + 2 →
    (encode (.drw x y n)).toNat = 0xD000 + 0x100 * x.val + 0x10 * y.val + n.val ∧
    (0 < n.val → 0xFFF < s.I.toNat + n.val - 1 → exec (.drw x y n) s = .next { s with
      PC := a, fault := some ⟨.memoryOutOfBounds, a, some (encode (.drw x y n)), some (max s.I.toNat 0x1000)⟩ }) ∧
    (n.val = 0 ∨ s.I.toNat + n.val - 1 ≤ 0xFFF → ∃ t, exec (.drw x y n) s = .next t ∧
      (∀ r c, SpriteSets s (s.reg x) (s.reg y) n.val r c → cell t.display r c = !cell s.display r c) ∧
      (∀ r c, ¬ SpriteSets s (s.reg x) (s.reg y) n.val r c → cell t.display r c = cell s.display r c) ∧
      ((∃ r c, SpriteSets s (s.reg x) (s.reg y) n.val r c ∧ cell s.display r c = true) → t.reg 15 = 1) ∧
      ((∀ r c, SpriteSets s (s.reg x) (s.reg y) n.val r c → cell s.display r c = false) → t.reg 15 = 0) ∧
      t.displayDirty = true ∧ OnlyReg s t 15 ∧
      t = { s with V := t.V, display := t.display, displayDirty := t.displayDirty })

/-- R196: drawing twice restores the display; on a cleared screen the first draw sets exactly the sprite's pixels with VF = 0 and
the second sets VF when the sprite has a set bit; an 8x1 sprite at (63, 31) touches only row 31, columns 63 and 0 to 6. These are the spec's
own inferences from R193 and R194. The coordinates are in registers other than VF, which the first draw writes. -/
def Obligations.DrawingTwiceRestoresTheDisplay : Prop :=
  ∀ (x y : RegIx) (n : Fin 16) (s : State), x ≠ 15 → y ≠ 15 → n.val = 0 ∨ s.I.toNat + n.val - 1 ≤ 0xFFF →
    ∃ t u, exec (.drw x y n) s = .next t ∧ exec (.drw x y n) t = .next u ∧ u.display = s.display ∧
      ((∀ r c, cell s.display r c = false) →
        t.reg 15 = 0 ∧ (∀ r c, cell t.display r c = true ↔ SpriteSets s (s.reg x) (s.reg y) n.val r c) ∧
        ((∃ r c, SpriteSets s (s.reg x) (s.reg y) n.val r c) → u.reg 15 = 1) ∧
        (s.reg x = 63 → s.reg y = 31 → n = 1 →
          ∀ r c, cell t.display r c = true → r.val = 31 ∧ (c.val = 63 ∨ c.val ≤ 6)))

/-! ### Keys and timers (46_timers_keys.md) -/

/-- R210, R211; a key number above 0xF faults (R212, decisions D14, D5, log 12). -/
def Obligations.KeySkipsReadTheLatch : Prop :=
  ∀ (x : RegIx) (s : State) (a : Word), s.PC = a + 2 →
    (encode (.skp x)).toNat = 0xE09E + 0x100 * x.val ∧ (encode (.sknp x)).toNat = 0xE0A1 + 0x100 * x.val ∧
    (0x0F < (s.reg x).toNat →
      exec (.skp x) s = .next { s with
        PC := a, fault := some ⟨.keyIndexOutOfRange, a, some (encode (.skp x)), some (s.reg x).toNat⟩ } ∧
      exec (.sknp x) s = .next { s with
        PC := a, fault := some ⟨.keyIndexOutOfRange, a, some (encode (.sknp x)), some (s.reg x).toNat⟩ }) ∧
    (∀ k : Fin 16, (s.reg x).toNat = k.val →
      exec (.skp x) s = .next { s with PC := if s.keys.get k = true then s.PC + 2 else s.PC } ∧
      exec (.sknp x) s = .next { s with PC := if s.keys.get k = false then s.PC + 2 else s.PC })

/-- R213: the value read is DT before the step's tick. -/
def Obligations.LdVxDTReadsBeforeTheTick : Prop :=
  ∀ (x : RegIx) (s : State), (encode (.ldXDt x)).toNat = 0xF007 + 0x100 * x.val ∧
    (∃ t, exec (.ldXDt x) s = .next t ∧ t.reg x = s.DT ∧ OnlyReg s t x ∧ OnlyV s t) ∧
    (s.FetchesInstr (.ldXDt x) → ∃ t, step s = .next t ∧ t.reg x = s.DT ∧ t.DT.toNat = s.DT.toNat - 1)

/-- R214, R215: the timer set is ticked by the same step, which R214 marks as the spec's own inference from R95. -/
def Obligations.TimerLoadsAreTickedAtOnce : Prop :=
  ∀ (x : RegIx) (s : State),
    (encode (.ldDtX x)).toNat = 0xF015 + 0x100 * x.val ∧ (encode (.ldStX x)).toNat = 0xF018 + 0x100 * x.val ∧
    exec (.ldDtX x) s = .next { s with DT := s.reg x } ∧ exec (.ldStX x) s = .next { s with ST := s.reg x } ∧
    (s.FetchesInstr (.ldDtX x) → ∃ t, step s = .next t ∧ t.DT.toNat = (s.reg x).toNat - 1) ∧
    (s.FetchesInstr (.ldStX x) → ∃ t, step s = .next t ∧ t.ST.toNat = (s.reg x).toNat - 1)

/-- R216: awaiting_key is set, V[x] is not written; in corrected mode the next step waits, in reference mode it does not
(decision D15, log 4). -/
def Obligations.LdVxKSetsAwaitingKey : Prop :=
  ∀ (x : RegIx) (s : State), (encode (.ldXK x)).toNat = 0xF00A + 0x100 * x.val ∧
    exec (.ldXK x) s = .next { s with awaitingKey := some x } ∧
    (s.FetchesInstr (.ldXK x) → ∃ t, step s = .next t ∧ t.awaitingKey = some x ∧ t.PC = s.PC + 2 ∧ t.V = s.V ∧
      (s.config.keyWaitMode = .corrected → stepResult t = some .waiting) ∧
      (s.config.keyWaitMode = .reference → t.waits = false))

/-! ### What no instruction does (whole-machine rules) -/

/-- R24, R27, R28, R29, R30, R31, R33: which instructions write each field other than V, memory and PC. That Fx55 and Fx65 leave
I is decision D13 (R170; log 12, unsafe). `rngDraws` and `config` are the model's own fields (logs 3 and 1): the clauses on them
are the model's choice, not these rules'. -/
def Obligations.EachFieldHasItsWriters : Prop :=
  ∀ (i : Instr) (s t : State), exec i s = .next t →
    ((∀ nnn, i ≠ .ldI nnn) → (∀ x, i ≠ .addI x) → (∀ x, i ≠ .ldF x) → t.I = s.I) ∧
    (i ≠ .ret → (∀ nnn, i ≠ .call nnn) → t.stack = s.stack) ∧
    (i ≠ .cls → (∀ x y n, i ≠ .drw x y n) → t.display = s.display ∧ t.displayDirty = s.displayDirty) ∧
    ((∀ x, i ≠ .ldDtX x) → t.DT = s.DT) ∧ ((∀ x, i ≠ .ldStX x) → t.ST = s.ST) ∧
    ((∀ x, i ≠ .ldXK x) → t.awaitingKey = s.awaitingKey) ∧
    ((∀ x nn, i ≠ .rnd x nn) → t.rngDraws = s.rngDraws) ∧
    t.keys = s.keys ∧ t.config = s.config

/-- R51, R57: only Fx33 and Fx55 write memory; every other instruction leaves every byte as it was. -/
def Obligations.OnlyLdBAndLdMemWriteMemory : Prop :=
  ∀ (i : Instr) (s t : State), (∀ x, i ≠ .ldB x) → (∀ x, i ≠ .ldMemX x) → exec i s = .next t → SameMemory s t

/-- R22, R23: an instruction leaves every register it does not name as a destination or flag as it was. R22's list is the spec's
own inference (marked [derived]), and that OR, AND and XOR leave VF is decision D12 (log 12, unsafe). -/
def Obligations.OtherRegistersStay : Prop :=
  ∀ (i : Instr) (s t : State) (j : RegIx), exec i s = .next t → writesReg i j = false → t.reg j = s.reg j

/-- R31, R36: no step changes a key latch or a parameter (the parameters are the model's own field `config`, log 1). -/
def Obligations.StepKeepsKeysAndParameters : Prop :=
  ∀ s t : State, step s = .next t → t.keys = s.keys ∧ t.config = s.config

/-- R28, R30: ST and display_dirty are read by no instruction: with other values of them an instruction does the same. -/
def Obligations.SoundTimerAndDirtyFlagAreInvisible : Prop :=
  ∀ (i : Instr) (s t : State) (v : Byte) (b : Bool), exec i s = .next t →
    ∃ u, exec i { s with ST := v, displayDirty := b } = .next u ∧ u = { t with ST := u.ST, displayDirty := u.displayDirty }

/-- R61, R295: a store by Fx55 is seen by the instruction fetch of the very next step (decision D26, log 12). -/
def Obligations.StoreIsSeenByTheNextFetch : Prop :=
  ∀ (s : State) (x : RegIx), s.memory.wf s.config.font → s.FetchesInstr (.ldMemX x) → 1 ≤ x.val → s.I = s.PC + 2 →
    s.I.toNat + x.val ≤ 0xFFF →
    ∃ t, step s = .next t ∧ t.PC = s.I ∧ opcodeOfBytes (t.readByte t.PC.toNat) (t.readByte (t.PC.toNat + 1))
      = opcodeOfBytes (s.reg 0) (s.reg 1)

/-- R91, R282: in corrected mode a wait lasts for any number of steps, every piece of state survives it, and the timers count
down when WAIT_TICKS_TIMERS (decisions D15, D17, log 4). -/
def Obligations.WaitLastsUntilAKeyComes : Prop :=
  ∀ (k : Nat) (s : State) (r : RegIx), s.fault = none → s.awaitingKey = some r → s.config.keyWaitMode = .corrected →
    ∃ t, stepsTo k s t ∧ t = { s with DT := t.DT, ST := t.ST } ∧
      t.DT.toNat = (if s.config.waitTicksTimers then s.DT.toNat - k else s.DT.toNat) ∧
      t.ST.toNat = (if s.config.waitTicksTimers then s.ST.toNat - k else s.ST.toNat)

/-- R112, R95: a jump to its own address repeats for any number of steps; only the timers move. -/
def Obligations.SelfJumpLoopsForEver : Prop :=
  ∀ (k : Nat) (s : State) (nnn : BitVec 12), s.FetchesInstr (.jp nnn) → nnn.toNat = s.PC.toNat →
    ∃ t, stepsTo k s t ∧ t = { s with DT := t.DT, ST := t.ST } ∧
      t.DT.toNat = s.DT.toNat - k ∧ t.ST.toNat = s.ST.toNat - k

/-- The model's own: a word placed by `withFetchWord` is the one the next step fetches (log 9, log 10). -/
def Obligations.PlacedWordIsFetched : Prop :=
  ∀ (s : State) (w : Nat), s.memory.wf s.config.font → s.PC.toNat ≤ 0xFFE →
    opcodeOfBytes ((s.withFetchWord 16 w).readByte s.PC.toNat) ((s.withFetchWord 16 w).readByte (s.PC.toNat + 1))
      = BitVec.ofNat 16 w ∧
    StoresOnly s (s.withFetchWord 16 w) s.PC.toNat 2

/-! ### The host's operations (48, 49, 70) -/

/-- R41, R290: reset, field by field; the parameters and the oracle do not change (display_dirty and the latch: decisions D21,
D6, log 12; `config` and `rngDraws` are the model's own fields, logs 1 and 3). -/
def Obligations.ResetSetsEveryField : Prop :=
  ∀ s : State, HostOp.reset.perform s = .ok s.resetOp ∧
    (∀ a, 0x050 ≤ a → ∀ h : a - 0x050 < 80, s.resetOp.readByte a = s.config.font.get ⟨a - 0x050, h⟩) ∧
    (∀ a, a < 0x050 ∨ (0x0A0 ≤ a ∧ a < 0x1000) → s.resetOp.readByte a = 0) ∧
    (∀ x, s.resetOp.reg x = 0) ∧ s.resetOp.I = 0 ∧ s.resetOp.PC = 0x200 ∧ s.resetOp.stack = [] ∧
    s.resetOp.DT = 0 ∧ s.resetOp.ST = 0 ∧ (∀ r c, cell s.resetOp.display r c = false) ∧ s.resetOp.displayDirty = false ∧
    (∀ k, s.resetOp.keys.get k = false) ∧ s.resetOp.awaitingKey = none ∧ s.resetOp.fault = none ∧
    s.resetOp.config = s.config ∧ s.resetOp.rngDraws = s.rngDraws

/-- R230, R231: the length check, then reset, then the copy (decision D22, log 12). -/
def Obligations.LoadProgramChecksThenCopies : Prop :=
  ∀ (rom : List Byte) (s : State),
    (3584 < rom.length → (HostOp.loadProgram rom).perform s = .error .romTooLarge) ∧
    (rom.length ≤ 3584 → ∃ t, (HostOp.loadProgram rom).perform s = .ok t ∧
      (∀ i (h : i < rom.length), t.readByte (0x200 + i) = rom[i]) ∧
      StoresOnly s.resetOp t 0x200 rom.length ∧ t = { s.resetOp with memory := t.memory })

/-- R232, R233, R234, R235: latches, key delivery in the same operation, and the refusal of a seventeenth key
(decisions D16, D28, log 12). -/
def Obligations.KeyEventsSetLatchesAndDeliver : Prop :=
  ∀ (s : State) (k : Nat),
    (0xF < k → (HostOp.keyDown k).perform s = .error .badKeyIndex ∧ (HostOp.keyUp k).perform s = .error .badKeyIndex) ∧
    (∀ h : k < 16,
      (∃ t, (HostOp.keyUp k).perform s = .ok t ∧ t.keys.get ⟨k, h⟩ = false ∧
        (∀ j, j ≠ ⟨k, h⟩ → t.keys.get j = s.keys.get j) ∧ t = { s with keys := t.keys }) ∧
      (∃ t, (HostOp.keyDown k).perform s = .ok t ∧ t.keys.get ⟨k, h⟩ = true ∧
        (∀ j, j ≠ ⟨k, h⟩ → t.keys.get j = s.keys.get j) ∧ t.awaitingKey = none ∧
        (s.awaitingKey = none → t = { s with keys := t.keys }) ∧
        (∀ r, s.awaitingKey = some r → (t.reg r).toNat = k ∧ OnlyReg s t r ∧
          t = { s with keys := t.keys, V := t.V, awaitingKey := none })))

/-- R236, R237: reading the display changes nothing, clear_dirty clears only the flag (decision D29, log 12). R238, R239: a frame
runs CYCLES_PER_FRAME steps of `step`, or fewer where one latches a fault (a machine that is faulted already runs none), ends
with the flag clear, and renders the display exactly when the steps left it dirty. The clauses on the frame rest on log 15
(DEDUCED: one frame, ending at the first fault, with no host operation inside it). -/
def Obligations.DisplayReadAndDirtyFlag : Prop :=
  ∀ s : State, HostOp.readDisplay.perform s = .ok s ∧ s.readDisplay = (s.display, s.displayDirty) ∧
    HostOp.clearDirty.perform s = .ok { s with displayDirty := false } ∧
    ∃ (k : Nat) (t : State), k ≤ s.config.cyclesPerFrame ∧ stepsTo k s t ∧ (k < s.config.cyclesPerFrame → t.fault ≠ none) ∧
      runSteps s.config.cyclesPerFrame s = t ∧ (frame s).2 = { t with displayDirty := false } ∧
      (frame s).1 = if t.displayDirty = true then some t.display else none

/-- R252 to R256: where each field stands in the blob, and its checksum (decisions D1, D23, log 12). -/
def Obligations.SavedBlobHasTheLayout : Prop :=
  ∀ s : State, s.stack.length ≤ 16 → ∃ b, b = s.saveState ∧ b.length = 4417 ∧
    b.take 5 = [0x43, 0x38, 0x53, 0x56, 0x01] ∧
    (∀ a, a < 4096 → blobByte b (5 + a) = s.readByte a) ∧
    (∀ x : RegIx, blobByte b (4101 + x.val) = s.reg x) ∧
    blobWord b 4117 = s.I ∧ blobWord b 4119 = s.PC ∧ blobByte b 4121 = s.DT ∧ blobByte b 4122 = s.ST ∧
    (blobByte b 4123).toNat = s.stack.length ∧
    (∀ e, e < 16 → blobWord b (4124 + 2 * e) = s.stack.getD e 0) ∧
    (∀ k : Fin 16, (blobWord b 4156).getLsbD k.val = s.keys.get k) ∧
    (∀ r, s.awaitingKey = some r → (blobByte b 4158).toNat = r.val) ∧ (s.awaitingKey = none → blobByte b 4158 = 0xFF) ∧
    (∀ (r : Fin displayH) (c : Fin displayW),
      (blobByte b (4159 + 8 * r.val + c.val / 8)).getLsbD (7 - c.val % 8) = cell s.display r c) ∧
    (blobWord b 4415).toNat = ((b.take 4415).map BitVec.toNat).sum % 65536

/-- R256: load_state refuses a blob exactly when one of the listed defects holds, and a refused blob changes nothing (decisions
D23, D24, log 12). -/
def Obligations.LoadStateRefusesCorruptBlobs : Prop :=
  ∀ (b : List Byte) (s : State), (HostOp.loadState b).perform s = .error .stateCorrupt ↔
    b.length ≠ 4417 ∨ b.take 4 ≠ [0x43, 0x38, 0x53, 0x56] ∨ blobByte b 4 ≠ 0x01 ∨
    (blobWord b 4415).toNat ≠ ((b.take 4415).map BitVec.toNat).sum % 65536 ∨
    0x0FFF < (blobWord b 4117).toNat ∨ 16 < (blobByte b 4123).toNat ∨
    (∃ e, (blobByte b 4123).toNat ≤ e ∧ e < 16 ∧ blobWord b (4124 + 2 * e) ≠ 0x0000) ∨
    (0x0F < (blobByte b 4158).toNat ∧ blobByte b 4158 ≠ 0xFF)

/-- R257, R258: the round-trip law, both ways (decisions D23, D24, log 12; the second way is the spec's own inference). The premise `m.Inv` is the invariant of every reachable state. -/
def Obligations.SaveLoadRoundTrip : Prop :=
  (∀ m s : State, m.Inv → ∃ t, (HostOp.loadState m.saveState).perform s = .ok t ∧
    (∀ a, a < 4096 → t.readByte a = m.readByte a) ∧
    t.V = m.V ∧ t.I = m.I ∧ t.PC = m.PC ∧ t.stack = m.stack ∧ t.DT = m.DT ∧ t.ST = m.ST ∧ t.display = m.display ∧
    t.keys = m.keys ∧ t.awaitingKey = m.awaitingKey ∧ t.displayDirty = true ∧ t.fault = none ∧
    t.config = s.config ∧ t.rngDraws = s.rngDraws) ∧
  (∀ (b : List Byte) (s t : State), (HostOp.loadState b).perform s = .ok t → t.saveState = b)

/-! ### Invariants -/

/-- Memory stays canonical and inside its 4096 bytes, I below 0x1000 (R25), the stack at most 16 deep (R27), and a latched
record of the instruction at PC (R97) and one of R270's: every step keeps all of it. The canonical form is the model's (log 7); the
bound of 16 is decision D7, the latch and its record D5, D6 and D25 (log 12), and R25 is the spec's own inference. -/
def Obligations.StepKeepsInvariant : Prop :=
  ∀ s t : State, s.Inv → step s = .next t → t.Inv

/-- The host's operations keep the same invariant (the same log and decisions; what load_state refuses: D24, log 12). -/
def Obligations.HostOperationsKeepInvariant : Prop :=
  ∀ (o : HostOp) (s t : State), s.Inv → o.perform s = .ok t → t.Inv

/-- The invariants hold at reset (a construction with any parameters, R291, decision D31, log 12). -/
def Obligations.InvariantsHoldAtReset : Prop :=
  State.reset = State.construct Config.default ∧ ∀ c : Config, (State.construct c).Inv ∧ (State.construct c).PCBounded

/-- R25, the spec's own inference: `I < 0x1000` in every reachable state; and R27's bound on the stack (decision D7, log 12). -/
def Obligations.IndexBelow4096InReachableStates : Prop :=
  ∀ s : State, Reachable s → s.I.toNat < 0x1000 ∧ s.stack.length ≤ 16

/-- R26: no step takes PC above 0x10FE, the largest value an instruction can write (R26 rests on decisions D2 and D3, log 12; that
a sum with V0 is not reduced is the spec's own inference, R114). -/
def Obligations.StepKeepsPCBound : Prop :=
  ∀ s t : State, s.PCBounded → step s = .next t → t.PCBounded
end

