-- ==== Sys2Proof/Laws/Decode.lean ====
section
/-! SUPPORT. The numbers the encoder's words are, and the numbers the decoder's fields are (R72): what the encoding's proofs
are arithmetic over. -/

namespace Sys2Proof

/-! ### Fields of a word -/

theorem fieldOp_eq (w : Word) : fieldOp w = w.toNat / 0x1000 % 16 := rfl

theorem fieldX_val (w : Word) : (fieldX w).val = w.toNat / 0x100 % 16 := rfl

theorem fieldY_val (w : Word) : (fieldY w).val = w.toNat / 0x10 % 16 := rfl

theorem field_low_nibble (w : Word) : field w 3 0 = w.toNat % 16 := by simp [field]

theorem field_low_byte (w : Word) : field w 7 0 = w.toNat % 256 := by simp [field]

theorem fieldN_val (w : Word) : (fieldN w).val = w.toNat % 16 := field_low_nibble w

theorem fieldNN_toNat (w : Word) : (fieldNN w).toNat = w.toNat % 256 := by simp [fieldNN, field]

theorem fieldNNN_toNat (w : Word) : (fieldNNN w).toNat = w.toNat % 4096 := by simp [fieldNNN, field]

/-! ### Words of the forms of R71 -/

theorem wordNNN_toNat (op : Nat) (nnn : BitVec 12) (h : op < 16) : (wordNNN op nnn).toNat = op * 0x1000 + nnn.toNat := by
  have := nnn.isLt
  simp only [wordNNN, BitVec.toNat_ofNat]
  omega

theorem wordXNN_toNat (op : Nat) (x : RegIx) (nn : Byte) (h : op < 16) :
    (wordXNN op x nn).toNat = op * 0x1000 + x.val * 0x100 + nn.toNat := by
  have := nn.isLt
  have := x.isLt
  simp only [wordXNN, BitVec.toNat_ofNat]
  omega

theorem wordXYN_toNat (op : Nat) (x y : RegIx) (n : Nat) (h : op < 16) (hn : n < 16) :
    (wordXYN op x y n).toNat = op * 0x1000 + x.val * 0x100 + y.val * 0x10 + n := by
  have := x.isLt
  have := y.isLt
  simp only [wordXYN, BitVec.toNat_ofNat]
  omega

theorem wordX_toNat (op : Nat) (x : RegIx) (nn : Nat) (h : op < 16) (hn : nn < 256) :
    (wordX op x nn).toNat = op * 0x1000 + x.val * 0x100 + nn := by
  have := x.isLt
  simp only [wordX, BitVec.toNat_ofNat]
  omega

/-! ### Bytes of a word -/

/-- The two bytes memory holds of a word make the word again (R52). -/
theorem opcodeOfBytes_bytesOfOpcode (w : Word) : opcodeOfBytes (w.extractLsb' 8 8) (w.extractLsb' 0 8) = w := by
  apply BitVec.eq_of_toNat_eq
  have := w.isLt
  simp only [opcodeOfBytes, BitVec.toNat_append, BitVec.extractLsb'_toNat, Nat.shiftRight_eq_div_pow, Nat.shiftLeft_eq]
  rw [Nat.mul_comm, ← Nat.two_pow_add_eq_or_of_lt (Nat.mod_lt _ (by decide))]
  omega

end Sys2Proof
end

