-- ==== Sys2Proof/Laws/Memory.lean ====
section
/-! SUPPORT. The laws of memory: a read after a write, the canonical form, and that it makes equal memories equal data. -/

namespace Sys2Proof.Machine.Memory

theorem resetByte_outside (font : Font) {a : Nat} (h : memSize ≤ a) : resetByte font a = 0 := by
  unfold resetByte
  rw [dif_neg]
  simp only [memSize, fontBase, fontSize] at *
  omega

/-! ### One byte -/

theorem read_listByte (font : Font) (m : Memory) (a b : Nat) (v : Byte) :
    (m.listByte a v).read font b = if b = a then v else m.read font b := by
  induction m with
  | nil => simp [listByte, read]
  | cons c m ih =>
    obtain ⟨d, u⟩ := c
    simp only [listByte]
    split
    · simp only [read]
    · split
      · next h => subst h; simp only [read]; split <;> simp_all
      · simp only [read, ih]
        split
        · next h => subst h; simp_all [eq_comm]
        · rfl

/-- Off the list, an address below every other entry's reads its reset content. -/
theorem read_of_lt (font : Font) (m : Memory) (a : Nat) (h : ∀ c ∈ m, a < c.1) : m.read font a = resetByte font a := by
  induction m with
  | nil => rfl
  | cons c m ih =>
    have hc := h c (by simp)
    simp only [read, if_neg (Nat.ne_of_lt hc)]
    exact ih fun d hd => h d (by simp [hd])

theorem read_unlistByte (font : Font) (m : Memory) (a b : Nat) (hm : m.Pairwise (fun c d => c.1 < d.1)) :
    (m.unlistByte a).read font b = if b = a then resetByte font a else m.read font b := by
  induction m with
  | nil => simp only [unlistByte, read]; split <;> simp_all
  | cons c m ih =>
    obtain ⟨d, u⟩ := c
    rw [List.pairwise_cons] at hm
    simp only [unlistByte]
    split
    · next h =>
      subst h
      split
      · next h => subst h; exact read_of_lt font m b hm.1
      · next h => simp [read, h]
    · simp only [read, ih hm.2]
      split
      · next h => subst h; simp_all [eq_comm]
      · rfl

/-- A read after a write: the value written at its address, and every other byte as before. -/
theorem read_write (font : Font) (m : Memory) (a b : Nat) (v : Byte) (hm : m.Pairwise (fun c d => c.1 < d.1)) :
    (m.write font a v).read font b = if b = a then v else m.read font b := by
  unfold write
  split
  · next h => rw [read_unlistByte font m a b hm, h]
  · exact read_listByte font m a b v

/-! ### The canonical form -/

theorem mem_listByte {m : Memory} {a : Nat} {v : Byte} {c : Host.Cell} (h : c ∈ m.listByte a v) : c = (a, v) ∨ c ∈ m := by
  induction m with
  | nil => simpa [listByte] using h
  | cons d m ih =>
    simp only [listByte] at h
    split at h
    · simpa using h
    · split at h
      · simp only [List.mem_cons] at h ⊢; tauto
      · simp only [List.mem_cons] at h ⊢; rcases h with h | h
        · tauto
        · have := ih h; tauto

theorem mem_unlistByte {m : Memory} {a : Nat} {c : Host.Cell} (h : c ∈ m.unlistByte a) : c ∈ m := by
  induction m with
  | nil => simp [unlistByte] at h
  | cons d m ih =>
    simp only [unlistByte] at h
    split at h
    · simp [h]
    · simp only [List.mem_cons] at h ⊢; rcases h with h | h
      · exact .inl h
      · exact .inr (ih h)

theorem listByte_rising {m : Memory} {a : Nat} {v : Byte} (hm : m.Pairwise (fun c d => c.1 < d.1)) :
    (m.listByte a v).Pairwise (fun c d => c.1 < d.1) := by
  induction m with
  | nil => simp [listByte]
  | cons d m ih =>
    have hm' := List.pairwise_cons.mp hm
    simp only [listByte]
    split
    · next h =>
      refine List.pairwise_cons.mpr ⟨fun c hc => ?_, hm⟩
      rcases List.mem_cons.mp hc with hc | hc
      · exact hc ▸ h
      · exact Nat.lt_trans h (hm'.1 c hc)
    · split
      · next h => exact List.pairwise_cons.mpr ⟨fun c hc => h ▸ hm'.1 c hc, hm'.2⟩
      · next h1 h2 =>
        refine List.pairwise_cons.mpr ⟨fun c hc => ?_, ih hm'.2⟩
        rcases mem_listByte hc with hc | hc
        · subst hc; exact (by omega : d.1 < a)
        · exact hm'.1 c hc

theorem unlistByte_rising {m : Memory} {a : Nat} (hm : m.Pairwise (fun c d => c.1 < d.1)) :
    (m.unlistByte a).Pairwise (fun c d => c.1 < d.1) := by
  induction m with
  | nil => simp [unlistByte]
  | cons d m ih =>
    have hm' := List.pairwise_cons.mp hm
    simp only [unlistByte]
    split
    · exact hm'.2
    · exact List.pairwise_cons.mpr ⟨fun c hc => hm'.1 c (mem_unlistByte hc), ih hm'.2⟩

/-- A write inside memory keeps the canonical form. -/
theorem write_wf {font : Font} {m : Memory} {a : Nat} {v : Byte} (hm : m.wf font) (ha : a < memSize) :
    (m.write font a v).wf font := by
  unfold write
  split
  · exact ⟨unlistByte_rising hm.1, fun c hc => hm.2 c (mem_unlistByte hc)⟩
  · next h =>
    refine ⟨listByte_rising hm.1, fun c hc => ?_⟩
    rcases mem_listByte hc with hc | hc
    · subst hc; exact ⟨ha, h⟩
    · exact hm.2 c hc

/-- A write anywhere keeps the addresses rising. -/
theorem write_rising {font : Font} {m : Memory} {a : Nat} {v : Byte} (hm : m.Pairwise (fun c d => c.1 < d.1)) :
    (m.write font a v).Pairwise (fun c d => c.1 < d.1) := by
  unfold write
  split
  · exact unlistByte_rising hm
  · exact listByte_rising hm

/-! ### Runs of bytes -/

theorem writeRun_wf {font : Font} {m : Memory} {a : Nat} {vs : List Byte} (hm : m.wf font) (ha : a + vs.length ≤ memSize) :
    (m.writeRun font a vs).wf font := by
  induction vs generalizing m a with
  | nil => exact hm
  | cons v vs ih =>
    simp only [List.length_cons] at ha
    exact ih (write_wf hm (by omega)) (by omega)

/-- A read after a run of writes: inside the run the byte written there, outside it the byte as before. -/
theorem read_writeRun (font : Font) (m : Memory) (a b : Nat) (vs : List Byte) (hm : m.Pairwise (fun c d => c.1 < d.1)) :
    (m.writeRun font a vs).read font b = if a ≤ b then (vs[b - a]?).getD (m.read font b) else m.read font b := by
  induction vs generalizing m a with
  | nil => simp [writeRun]
  | cons v vs ih =>
    rw [writeRun, ih _ _ (write_rising hm), read_write font m a b v hm]
    by_cases h : b = a
    · subst h; simp
    · by_cases h' : a ≤ b
      · have h1 : a + 1 ≤ b := by omega
        have h2 : b - a = (b - (a + 1)) + 1 := by omega
        simp [h, h', h1, h2]
      · have h1 : ¬ a + 1 ≤ b := by omega
        simp [h, h', h1]

theorem read_writeRun_outside (font : Font) (m : Memory) (a b : Nat) (vs : List Byte)
    (hm : m.Pairwise (fun c d => c.1 < d.1)) (hb : b < a ∨ a + vs.length ≤ b) :
    (m.writeRun font a vs).read font b = m.read font b := by
  rw [read_writeRun font m a b vs hm]
  split
  · have : vs.length ≤ b - a := by omega
    simp [List.getElem?_eq_none this]
  · rfl

theorem length_readRun (font : Font) (m : Memory) (a n : Nat) : (m.readRun font a n).length = n := by
  simp [readRun]

/-! ### Memory made of a run of bytes -/

theorem ofBytes_ge {font : Font} {a : Nat} {vs : List Byte} {c : Host.Cell} (h : c ∈ ofBytes font a vs) :
    a ≤ c.1 ∧ c.1 < a + vs.length ∧ c.2 ≠ resetByte font c.1 := by
  induction vs generalizing a with
  | nil => simp [ofBytes] at h
  | cons v vs ih =>
    simp only [ofBytes] at h
    simp only [List.length_cons]
    split at h
    · have := ih h; exact ⟨by omega, by omega, this.2.2⟩
    · next hv =>
      rcases List.mem_cons.mp h with h | h
      · subst h; simp only; exact ⟨by omega, by omega, hv⟩
      · have := ih h; exact ⟨by omega, by omega, this.2.2⟩

theorem ofBytes_wf {font : Font} {a : Nat} {vs : List Byte} (h : a + vs.length ≤ memSize) : (ofBytes font a vs).wf font := by
  refine ⟨?_, fun c hc => ⟨by have := ofBytes_ge hc; omega, (ofBytes_ge hc).2.2⟩⟩
  clear h
  induction vs generalizing a with
  | nil => simp [ofBytes]
  | cons v vs ih =>
    simp only [ofBytes]
    split
    · exact ih
    · exact List.pairwise_cons.mpr ⟨fun c hc => by have := ofBytes_ge hc; simp only; omega, ih⟩

theorem read_ofBytes (font : Font) (a b : Nat) (vs : List Byte) :
    (ofBytes font a vs).read font b = if a ≤ b then (vs[b - a]?).getD (resetByte font b) else resetByte font b := by
  induction vs generalizing a with
  | nil => simp [ofBytes, read]
  | cons v vs ih =>
    by_cases h : b = a
    · subst h
      simp only [ofBytes]
      split
      · next hv => rw [ih]; simp [hv]
      · simp [read]
    · have key : (ofBytes font a (v :: vs)).read font b = (ofBytes font (a + 1) vs).read font b := by
        simp only [ofBytes]
        split
        · rfl
        · simp [read, h]
      rw [key, ih]
      by_cases h' : a ≤ b
      · have h1 : a + 1 ≤ b := by omega
        have h2 : b - a = (b - (a + 1)) + 1 := by omega
        simp [h', h1, h2]
      · have h1 : ¬ a + 1 ≤ b := by omega
        simp [h', h1]

/-! ### Equal memories are equal data -/

theorem head_not_read {font : Font} {d : Nat} {u : Byte} {m m' : Memory} (hm : wf font ((d, u) :: m))
    (hlt : ∀ c ∈ m', d < c.1) (h : ∀ a, read font ((d, u) :: m) a = read font m' a) : False := by
  have h1 := h d
  rw [read_of_lt font m' d hlt] at h1
  simp only [read, if_true] at h1
  exact (hm.2 (d, u) (by simp)).2 h1

/-- The canonical form is canonical: memories that read alike are one list. -/
theorem ext_of_read {font : Font} {m m' : Memory} (hm : m.wf font) (hm' : m'.wf font)
    (h : ∀ a, m.read font a = m'.read font a) : m = m' := by
  induction m generalizing m' with
  | nil =>
    cases m' with
    | nil => rfl
    | cons c m' => exact (head_not_read hm' (by simp) fun a => (h a).symm).elim
  | cons c m ih =>
    cases m' with
    | nil => exact (head_not_read hm (by simp) h).elim
    | cons d m' =>
      obtain ⟨ca, cv⟩ := c
      obtain ⟨da, dv⟩ := d
      have r := List.pairwise_cons.mp hm.1
      have r' := List.pairwise_cons.mp hm'.1
      rcases Nat.lt_trichotomy ca da with hlt | heq | hgt
      · exact (head_not_read hm (fun e he => by
          rcases List.mem_cons.mp he with he | he
          · exact he ▸ hlt
          · exact Nat.lt_trans hlt (r'.1 e he)) h).elim
      · subst heq
        have hv : cv = dv := by have := h ca; simpa [read] using this
        subst hv
        congr 1
        refine ih ⟨r.2, fun e he => hm.2 e (by simp [he])⟩ ⟨r'.2, fun e he => hm'.2 e (by simp [he])⟩ fun a => ?_
        by_cases ha : a = ca
        · subst ha
          rw [read_of_lt font m a r.1, read_of_lt font m' a r'.1]
        · have := h a
          simpa [read, ha] using this
      · exact (head_not_read hm' (fun e he => by
          rcases List.mem_cons.mp he with he | he
          · exact he ▸ hgt
          · exact Nat.lt_trans hgt (r.1 e he)) fun a => (h a).symm).elim

end Sys2Proof.Machine.Memory
end

