-- ==== Sys2Proof/Laws/State.lean ====
section
/-! SUPPORT. One lemma per field per update of the state, so that no proof unfolds a record update. -/

namespace Sys2Proof.Machine.State

/-! ### `State.setReg` -/
@[simp] theorem setReg_config (s : State) (x : RegIx) (v : Byte) : (s.setReg x v).config = s.config := rfl
@[simp] theorem setReg_rngDraws (s : State) (x : RegIx) (v : Byte) : (s.setReg x v).rngDraws = s.rngDraws := rfl
@[simp] theorem setReg_memory (s : State) (x : RegIx) (v : Byte) : (s.setReg x v).memory = s.memory := rfl
@[simp] theorem setReg_V (s : State) (x : RegIx) (v : Byte) : (s.setReg x v).V = s.V.set x.val v x.isLt := rfl
@[simp] theorem setReg_I (s : State) (x : RegIx) (v : Byte) : (s.setReg x v).I = s.I := rfl
@[simp] theorem setReg_PC (s : State) (x : RegIx) (v : Byte) : (s.setReg x v).PC = s.PC := rfl
@[simp] theorem setReg_stack (s : State) (x : RegIx) (v : Byte) : (s.setReg x v).stack = s.stack := rfl
@[simp] theorem setReg_DT (s : State) (x : RegIx) (v : Byte) : (s.setReg x v).DT = s.DT := rfl
@[simp] theorem setReg_ST (s : State) (x : RegIx) (v : Byte) : (s.setReg x v).ST = s.ST := rfl
@[simp] theorem setReg_display (s : State) (x : RegIx) (v : Byte) : (s.setReg x v).display = s.display := rfl
@[simp] theorem setReg_displayDirty (s : State) (x : RegIx) (v : Byte) : (s.setReg x v).displayDirty = s.displayDirty := rfl
@[simp] theorem setReg_keys (s : State) (x : RegIx) (v : Byte) : (s.setReg x v).keys = s.keys := rfl
@[simp] theorem setReg_awaitingKey (s : State) (x : RegIx) (v : Byte) : (s.setReg x v).awaitingKey = s.awaitingKey := rfl
@[simp] theorem setReg_fault (s : State) (x : RegIx) (v : Byte) : (s.setReg x v).fault = s.fault := rfl
@[simp] theorem setReg_readByte (s : State) (x : RegIx) (v : Byte) (i : Nat) : (s.setReg x v).readByte i = s.readByte i := rfl

/-! ### `State.setI` -/
@[simp] theorem setI_config (s : State) (v : Word) : (s.setI v).config = s.config := rfl
@[simp] theorem setI_rngDraws (s : State) (v : Word) : (s.setI v).rngDraws = s.rngDraws := rfl
@[simp] theorem setI_memory (s : State) (v : Word) : (s.setI v).memory = s.memory := rfl
@[simp] theorem setI_V (s : State) (v : Word) : (s.setI v).V = s.V := rfl
@[simp] theorem setI_I (s : State) (v : Word) : (s.setI v).I = v := rfl
@[simp] theorem setI_PC (s : State) (v : Word) : (s.setI v).PC = s.PC := rfl
@[simp] theorem setI_stack (s : State) (v : Word) : (s.setI v).stack = s.stack := rfl
@[simp] theorem setI_DT (s : State) (v : Word) : (s.setI v).DT = s.DT := rfl
@[simp] theorem setI_ST (s : State) (v : Word) : (s.setI v).ST = s.ST := rfl
@[simp] theorem setI_display (s : State) (v : Word) : (s.setI v).display = s.display := rfl
@[simp] theorem setI_displayDirty (s : State) (v : Word) : (s.setI v).displayDirty = s.displayDirty := rfl
@[simp] theorem setI_keys (s : State) (v : Word) : (s.setI v).keys = s.keys := rfl
@[simp] theorem setI_awaitingKey (s : State) (v : Word) : (s.setI v).awaitingKey = s.awaitingKey := rfl
@[simp] theorem setI_fault (s : State) (v : Word) : (s.setI v).fault = s.fault := rfl
@[simp] theorem setI_reg (s : State) (v : Word) (j : RegIx) : (s.setI v).reg j = s.reg j := rfl
@[simp] theorem setI_readByte (s : State) (v : Word) (i : Nat) : (s.setI v).readByte i = s.readByte i := rfl

/-! ### `State.setPC` -/
@[simp] theorem setPC_config (s : State) (v : Word) : (s.setPC v).config = s.config := rfl
@[simp] theorem setPC_rngDraws (s : State) (v : Word) : (s.setPC v).rngDraws = s.rngDraws := rfl
@[simp] theorem setPC_memory (s : State) (v : Word) : (s.setPC v).memory = s.memory := rfl
@[simp] theorem setPC_V (s : State) (v : Word) : (s.setPC v).V = s.V := rfl
@[simp] theorem setPC_I (s : State) (v : Word) : (s.setPC v).I = s.I := rfl
@[simp] theorem setPC_PC (s : State) (v : Word) : (s.setPC v).PC = v := rfl
@[simp] theorem setPC_stack (s : State) (v : Word) : (s.setPC v).stack = s.stack := rfl
@[simp] theorem setPC_DT (s : State) (v : Word) : (s.setPC v).DT = s.DT := rfl
@[simp] theorem setPC_ST (s : State) (v : Word) : (s.setPC v).ST = s.ST := rfl
@[simp] theorem setPC_display (s : State) (v : Word) : (s.setPC v).display = s.display := rfl
@[simp] theorem setPC_displayDirty (s : State) (v : Word) : (s.setPC v).displayDirty = s.displayDirty := rfl
@[simp] theorem setPC_keys (s : State) (v : Word) : (s.setPC v).keys = s.keys := rfl
@[simp] theorem setPC_awaitingKey (s : State) (v : Word) : (s.setPC v).awaitingKey = s.awaitingKey := rfl
@[simp] theorem setPC_fault (s : State) (v : Word) : (s.setPC v).fault = s.fault := rfl
@[simp] theorem setPC_reg (s : State) (v : Word) (j : RegIx) : (s.setPC v).reg j = s.reg j := rfl
@[simp] theorem setPC_readByte (s : State) (v : Word) (i : Nat) : (s.setPC v).readByte i = s.readByte i := rfl

/-! ### `State.setDT` -/
@[simp] theorem setDT_config (s : State) (v : Byte) : (s.setDT v).config = s.config := rfl
@[simp] theorem setDT_rngDraws (s : State) (v : Byte) : (s.setDT v).rngDraws = s.rngDraws := rfl
@[simp] theorem setDT_memory (s : State) (v : Byte) : (s.setDT v).memory = s.memory := rfl
@[simp] theorem setDT_V (s : State) (v : Byte) : (s.setDT v).V = s.V := rfl
@[simp] theorem setDT_I (s : State) (v : Byte) : (s.setDT v).I = s.I := rfl
@[simp] theorem setDT_PC (s : State) (v : Byte) : (s.setDT v).PC = s.PC := rfl
@[simp] theorem setDT_stack (s : State) (v : Byte) : (s.setDT v).stack = s.stack := rfl
@[simp] theorem setDT_DT (s : State) (v : Byte) : (s.setDT v).DT = v := rfl
@[simp] theorem setDT_ST (s : State) (v : Byte) : (s.setDT v).ST = s.ST := rfl
@[simp] theorem setDT_display (s : State) (v : Byte) : (s.setDT v).display = s.display := rfl
@[simp] theorem setDT_displayDirty (s : State) (v : Byte) : (s.setDT v).displayDirty = s.displayDirty := rfl
@[simp] theorem setDT_keys (s : State) (v : Byte) : (s.setDT v).keys = s.keys := rfl
@[simp] theorem setDT_awaitingKey (s : State) (v : Byte) : (s.setDT v).awaitingKey = s.awaitingKey := rfl
@[simp] theorem setDT_fault (s : State) (v : Byte) : (s.setDT v).fault = s.fault := rfl
@[simp] theorem setDT_reg (s : State) (v : Byte) (j : RegIx) : (s.setDT v).reg j = s.reg j := rfl
@[simp] theorem setDT_readByte (s : State) (v : Byte) (i : Nat) : (s.setDT v).readByte i = s.readByte i := rfl

/-! ### `State.setST` -/
@[simp] theorem setST_config (s : State) (v : Byte) : (s.setST v).config = s.config := rfl
@[simp] theorem setST_rngDraws (s : State) (v : Byte) : (s.setST v).rngDraws = s.rngDraws := rfl
@[simp] theorem setST_memory (s : State) (v : Byte) : (s.setST v).memory = s.memory := rfl
@[simp] theorem setST_V (s : State) (v : Byte) : (s.setST v).V = s.V := rfl
@[simp] theorem setST_I (s : State) (v : Byte) : (s.setST v).I = s.I := rfl
@[simp] theorem setST_PC (s : State) (v : Byte) : (s.setST v).PC = s.PC := rfl
@[simp] theorem setST_stack (s : State) (v : Byte) : (s.setST v).stack = s.stack := rfl
@[simp] theorem setST_DT (s : State) (v : Byte) : (s.setST v).DT = s.DT := rfl
@[simp] theorem setST_ST (s : State) (v : Byte) : (s.setST v).ST = v := rfl
@[simp] theorem setST_display (s : State) (v : Byte) : (s.setST v).display = s.display := rfl
@[simp] theorem setST_displayDirty (s : State) (v : Byte) : (s.setST v).displayDirty = s.displayDirty := rfl
@[simp] theorem setST_keys (s : State) (v : Byte) : (s.setST v).keys = s.keys := rfl
@[simp] theorem setST_awaitingKey (s : State) (v : Byte) : (s.setST v).awaitingKey = s.awaitingKey := rfl
@[simp] theorem setST_fault (s : State) (v : Byte) : (s.setST v).fault = s.fault := rfl
@[simp] theorem setST_reg (s : State) (v : Byte) (j : RegIx) : (s.setST v).reg j = s.reg j := rfl
@[simp] theorem setST_readByte (s : State) (v : Byte) (i : Nat) : (s.setST v).readByte i = s.readByte i := rfl

/-! ### `State.setAwaiting` -/
@[simp] theorem setAwaiting_config (s : State) (v : Option RegIx) : (s.setAwaiting v).config = s.config := rfl
@[simp] theorem setAwaiting_rngDraws (s : State) (v : Option RegIx) : (s.setAwaiting v).rngDraws = s.rngDraws := rfl
@[simp] theorem setAwaiting_memory (s : State) (v : Option RegIx) : (s.setAwaiting v).memory = s.memory := rfl
@[simp] theorem setAwaiting_V (s : State) (v : Option RegIx) : (s.setAwaiting v).V = s.V := rfl
@[simp] theorem setAwaiting_I (s : State) (v : Option RegIx) : (s.setAwaiting v).I = s.I := rfl
@[simp] theorem setAwaiting_PC (s : State) (v : Option RegIx) : (s.setAwaiting v).PC = s.PC := rfl
@[simp] theorem setAwaiting_stack (s : State) (v : Option RegIx) : (s.setAwaiting v).stack = s.stack := rfl
@[simp] theorem setAwaiting_DT (s : State) (v : Option RegIx) : (s.setAwaiting v).DT = s.DT := rfl
@[simp] theorem setAwaiting_ST (s : State) (v : Option RegIx) : (s.setAwaiting v).ST = s.ST := rfl
@[simp] theorem setAwaiting_display (s : State) (v : Option RegIx) : (s.setAwaiting v).display = s.display := rfl
@[simp] theorem setAwaiting_displayDirty (s : State) (v : Option RegIx) : (s.setAwaiting v).displayDirty = s.displayDirty := rfl
@[simp] theorem setAwaiting_keys (s : State) (v : Option RegIx) : (s.setAwaiting v).keys = s.keys := rfl
@[simp] theorem setAwaiting_awaitingKey (s : State) (v : Option RegIx) : (s.setAwaiting v).awaitingKey = v := rfl
@[simp] theorem setAwaiting_fault (s : State) (v : Option RegIx) : (s.setAwaiting v).fault = s.fault := rfl
@[simp] theorem setAwaiting_reg (s : State) (v : Option RegIx) (j : RegIx) : (s.setAwaiting v).reg j = s.reg j := rfl
@[simp] theorem setAwaiting_readByte (s : State) (v : Option RegIx) (i : Nat) : (s.setAwaiting v).readByte i = s.readByte i := rfl

/-! ### `State.setFault` -/
@[simp] theorem setFault_config (s : State) (v : Option FaultRecord) : (s.setFault v).config = s.config := rfl
@[simp] theorem setFault_rngDraws (s : State) (v : Option FaultRecord) : (s.setFault v).rngDraws = s.rngDraws := rfl
@[simp] theorem setFault_memory (s : State) (v : Option FaultRecord) : (s.setFault v).memory = s.memory := rfl
@[simp] theorem setFault_V (s : State) (v : Option FaultRecord) : (s.setFault v).V = s.V := rfl
@[simp] theorem setFault_I (s : State) (v : Option FaultRecord) : (s.setFault v).I = s.I := rfl
@[simp] theorem setFault_PC (s : State) (v : Option FaultRecord) : (s.setFault v).PC = s.PC := rfl
@[simp] theorem setFault_stack (s : State) (v : Option FaultRecord) : (s.setFault v).stack = s.stack := rfl
@[simp] theorem setFault_DT (s : State) (v : Option FaultRecord) : (s.setFault v).DT = s.DT := rfl
@[simp] theorem setFault_ST (s : State) (v : Option FaultRecord) : (s.setFault v).ST = s.ST := rfl
@[simp] theorem setFault_display (s : State) (v : Option FaultRecord) : (s.setFault v).display = s.display := rfl
@[simp] theorem setFault_displayDirty (s : State) (v : Option FaultRecord) : (s.setFault v).displayDirty = s.displayDirty := rfl
@[simp] theorem setFault_keys (s : State) (v : Option FaultRecord) : (s.setFault v).keys = s.keys := rfl
@[simp] theorem setFault_awaitingKey (s : State) (v : Option FaultRecord) : (s.setFault v).awaitingKey = s.awaitingKey := rfl
@[simp] theorem setFault_fault (s : State) (v : Option FaultRecord) : (s.setFault v).fault = v := rfl
@[simp] theorem setFault_reg (s : State) (v : Option FaultRecord) (j : RegIx) : (s.setFault v).reg j = s.reg j := rfl
@[simp] theorem setFault_readByte (s : State) (v : Option FaultRecord) (i : Nat) : (s.setFault v).readByte i = s.readByte i := rfl

/-! ### `State.setStack` -/
@[simp] theorem setStack_config (s : State) (v : List Word) : (s.setStack v).config = s.config := rfl
@[simp] theorem setStack_rngDraws (s : State) (v : List Word) : (s.setStack v).rngDraws = s.rngDraws := rfl
@[simp] theorem setStack_memory (s : State) (v : List Word) : (s.setStack v).memory = s.memory := rfl
@[simp] theorem setStack_V (s : State) (v : List Word) : (s.setStack v).V = s.V := rfl
@[simp] theorem setStack_I (s : State) (v : List Word) : (s.setStack v).I = s.I := rfl
@[simp] theorem setStack_PC (s : State) (v : List Word) : (s.setStack v).PC = s.PC := rfl
@[simp] theorem setStack_stack (s : State) (v : List Word) : (s.setStack v).stack = v := rfl
@[simp] theorem setStack_DT (s : State) (v : List Word) : (s.setStack v).DT = s.DT := rfl
@[simp] theorem setStack_ST (s : State) (v : List Word) : (s.setStack v).ST = s.ST := rfl
@[simp] theorem setStack_display (s : State) (v : List Word) : (s.setStack v).display = s.display := rfl
@[simp] theorem setStack_displayDirty (s : State) (v : List Word) : (s.setStack v).displayDirty = s.displayDirty := rfl
@[simp] theorem setStack_keys (s : State) (v : List Word) : (s.setStack v).keys = s.keys := rfl
@[simp] theorem setStack_awaitingKey (s : State) (v : List Word) : (s.setStack v).awaitingKey = s.awaitingKey := rfl
@[simp] theorem setStack_fault (s : State) (v : List Word) : (s.setStack v).fault = s.fault := rfl
@[simp] theorem setStack_reg (s : State) (v : List Word) (j : RegIx) : (s.setStack v).reg j = s.reg j := rfl
@[simp] theorem setStack_readByte (s : State) (v : List Word) (i : Nat) : (s.setStack v).readByte i = s.readByte i := rfl

/-! ### `State.setDisplay` -/
@[simp] theorem setDisplay_config (s : State) (d : Display) (b : Bool) : (s.setDisplay d b).config = s.config := rfl
@[simp] theorem setDisplay_rngDraws (s : State) (d : Display) (b : Bool) : (s.setDisplay d b).rngDraws = s.rngDraws := rfl
@[simp] theorem setDisplay_memory (s : State) (d : Display) (b : Bool) : (s.setDisplay d b).memory = s.memory := rfl
@[simp] theorem setDisplay_V (s : State) (d : Display) (b : Bool) : (s.setDisplay d b).V = s.V := rfl
@[simp] theorem setDisplay_I (s : State) (d : Display) (b : Bool) : (s.setDisplay d b).I = s.I := rfl
@[simp] theorem setDisplay_PC (s : State) (d : Display) (b : Bool) : (s.setDisplay d b).PC = s.PC := rfl
@[simp] theorem setDisplay_stack (s : State) (d : Display) (b : Bool) : (s.setDisplay d b).stack = s.stack := rfl
@[simp] theorem setDisplay_DT (s : State) (d : Display) (b : Bool) : (s.setDisplay d b).DT = s.DT := rfl
@[simp] theorem setDisplay_ST (s : State) (d : Display) (b : Bool) : (s.setDisplay d b).ST = s.ST := rfl
@[simp] theorem setDisplay_display (s : State) (d : Display) (b : Bool) : (s.setDisplay d b).display = d := rfl
@[simp] theorem setDisplay_displayDirty (s : State) (d : Display) (b : Bool) : (s.setDisplay d b).displayDirty = b := rfl
@[simp] theorem setDisplay_keys (s : State) (d : Display) (b : Bool) : (s.setDisplay d b).keys = s.keys := rfl
@[simp] theorem setDisplay_awaitingKey (s : State) (d : Display) (b : Bool) : (s.setDisplay d b).awaitingKey = s.awaitingKey := rfl
@[simp] theorem setDisplay_fault (s : State) (d : Display) (b : Bool) : (s.setDisplay d b).fault = s.fault := rfl
@[simp] theorem setDisplay_reg (s : State) (d : Display) (b : Bool) (j : RegIx) : (s.setDisplay d b).reg j = s.reg j := rfl
@[simp] theorem setDisplay_readByte (s : State) (d : Display) (b : Bool) (i : Nat) : (s.setDisplay d b).readByte i = s.readByte i := rfl

/-! ### `State.setKey` -/
@[simp] theorem setKey_config (s : State) (k : Fin 16) (b : Bool) : (s.setKey k b).config = s.config := rfl
@[simp] theorem setKey_rngDraws (s : State) (k : Fin 16) (b : Bool) : (s.setKey k b).rngDraws = s.rngDraws := rfl
@[simp] theorem setKey_memory (s : State) (k : Fin 16) (b : Bool) : (s.setKey k b).memory = s.memory := rfl
@[simp] theorem setKey_V (s : State) (k : Fin 16) (b : Bool) : (s.setKey k b).V = s.V := rfl
@[simp] theorem setKey_I (s : State) (k : Fin 16) (b : Bool) : (s.setKey k b).I = s.I := rfl
@[simp] theorem setKey_PC (s : State) (k : Fin 16) (b : Bool) : (s.setKey k b).PC = s.PC := rfl
@[simp] theorem setKey_stack (s : State) (k : Fin 16) (b : Bool) : (s.setKey k b).stack = s.stack := rfl
@[simp] theorem setKey_DT (s : State) (k : Fin 16) (b : Bool) : (s.setKey k b).DT = s.DT := rfl
@[simp] theorem setKey_ST (s : State) (k : Fin 16) (b : Bool) : (s.setKey k b).ST = s.ST := rfl
@[simp] theorem setKey_display (s : State) (k : Fin 16) (b : Bool) : (s.setKey k b).display = s.display := rfl
@[simp] theorem setKey_displayDirty (s : State) (k : Fin 16) (b : Bool) : (s.setKey k b).displayDirty = s.displayDirty := rfl
@[simp] theorem setKey_keys (s : State) (k : Fin 16) (b : Bool) : (s.setKey k b).keys = s.keys.set k.val b k.isLt := rfl
@[simp] theorem setKey_awaitingKey (s : State) (k : Fin 16) (b : Bool) : (s.setKey k b).awaitingKey = s.awaitingKey := rfl
@[simp] theorem setKey_fault (s : State) (k : Fin 16) (b : Bool) : (s.setKey k b).fault = s.fault := rfl
@[simp] theorem setKey_reg (s : State) (k : Fin 16) (b : Bool) (j : RegIx) : (s.setKey k b).reg j = s.reg j := rfl
@[simp] theorem setKey_readByte (s : State) (k : Fin 16) (b : Bool) (i : Nat) : (s.setKey k b).readByte i = s.readByte i := rfl

/-! ### `State.setMemory` -/
@[simp] theorem setMemory_config (s : State) (m : Memory) : (s.setMemory m).config = s.config := rfl
@[simp] theorem setMemory_rngDraws (s : State) (m : Memory) : (s.setMemory m).rngDraws = s.rngDraws := rfl
@[simp] theorem setMemory_memory (s : State) (m : Memory) : (s.setMemory m).memory = m := rfl
@[simp] theorem setMemory_V (s : State) (m : Memory) : (s.setMemory m).V = s.V := rfl
@[simp] theorem setMemory_I (s : State) (m : Memory) : (s.setMemory m).I = s.I := rfl
@[simp] theorem setMemory_PC (s : State) (m : Memory) : (s.setMemory m).PC = s.PC := rfl
@[simp] theorem setMemory_stack (s : State) (m : Memory) : (s.setMemory m).stack = s.stack := rfl
@[simp] theorem setMemory_DT (s : State) (m : Memory) : (s.setMemory m).DT = s.DT := rfl
@[simp] theorem setMemory_ST (s : State) (m : Memory) : (s.setMemory m).ST = s.ST := rfl
@[simp] theorem setMemory_display (s : State) (m : Memory) : (s.setMemory m).display = s.display := rfl
@[simp] theorem setMemory_displayDirty (s : State) (m : Memory) : (s.setMemory m).displayDirty = s.displayDirty := rfl
@[simp] theorem setMemory_keys (s : State) (m : Memory) : (s.setMemory m).keys = s.keys := rfl
@[simp] theorem setMemory_awaitingKey (s : State) (m : Memory) : (s.setMemory m).awaitingKey = s.awaitingKey := rfl
@[simp] theorem setMemory_fault (s : State) (m : Memory) : (s.setMemory m).fault = s.fault := rfl
@[simp] theorem setMemory_reg (s : State) (m : Memory) (j : RegIx) : (s.setMemory m).reg j = s.reg j := rfl

/-! ### `State.countDraw` -/
@[simp] theorem countDraw_config (s : State) : (s.countDraw).config = s.config := rfl
@[simp] theorem countDraw_rngDraws (s : State) : (s.countDraw).rngDraws = s.rngDraws + 1 := rfl
@[simp] theorem countDraw_memory (s : State) : (s.countDraw).memory = s.memory := rfl
@[simp] theorem countDraw_V (s : State) : (s.countDraw).V = s.V := rfl
@[simp] theorem countDraw_I (s : State) : (s.countDraw).I = s.I := rfl
@[simp] theorem countDraw_PC (s : State) : (s.countDraw).PC = s.PC := rfl
@[simp] theorem countDraw_stack (s : State) : (s.countDraw).stack = s.stack := rfl
@[simp] theorem countDraw_DT (s : State) : (s.countDraw).DT = s.DT := rfl
@[simp] theorem countDraw_ST (s : State) : (s.countDraw).ST = s.ST := rfl
@[simp] theorem countDraw_display (s : State) : (s.countDraw).display = s.display := rfl
@[simp] theorem countDraw_displayDirty (s : State) : (s.countDraw).displayDirty = s.displayDirty := rfl
@[simp] theorem countDraw_keys (s : State) : (s.countDraw).keys = s.keys := rfl
@[simp] theorem countDraw_awaitingKey (s : State) : (s.countDraw).awaitingKey = s.awaitingKey := rfl
@[simp] theorem countDraw_fault (s : State) : (s.countDraw).fault = s.fault := rfl
@[simp] theorem countDraw_reg (s : State) (j : RegIx) : (s.countDraw).reg j = s.reg j := rfl
@[simp] theorem countDraw_readByte (s : State) (i : Nat) : (s.countDraw).readByte i = s.readByte i := rfl

/-! ### `State.advance` -/
@[simp] theorem advance_config (s : State) : (s.advance).config = s.config := rfl
@[simp] theorem advance_rngDraws (s : State) : (s.advance).rngDraws = s.rngDraws := rfl
@[simp] theorem advance_memory (s : State) : (s.advance).memory = s.memory := rfl
@[simp] theorem advance_V (s : State) : (s.advance).V = s.V := rfl
@[simp] theorem advance_I (s : State) : (s.advance).I = s.I := rfl
@[simp] theorem advance_PC (s : State) : (s.advance).PC = s.PC + 2 := rfl
@[simp] theorem advance_stack (s : State) : (s.advance).stack = s.stack := rfl
@[simp] theorem advance_DT (s : State) : (s.advance).DT = s.DT := rfl
@[simp] theorem advance_ST (s : State) : (s.advance).ST = s.ST := rfl
@[simp] theorem advance_display (s : State) : (s.advance).display = s.display := rfl
@[simp] theorem advance_displayDirty (s : State) : (s.advance).displayDirty = s.displayDirty := rfl
@[simp] theorem advance_keys (s : State) : (s.advance).keys = s.keys := rfl
@[simp] theorem advance_awaitingKey (s : State) : (s.advance).awaitingKey = s.awaitingKey := rfl
@[simp] theorem advance_fault (s : State) : (s.advance).fault = s.fault := rfl
@[simp] theorem advance_reg (s : State) (j : RegIx) : (s.advance).reg j = s.reg j := rfl
@[simp] theorem advance_readByte (s : State) (i : Nat) : (s.advance).readByte i = s.readByte i := rfl

/-! ### `State.undoAdvance` -/
@[simp] theorem undoAdvance_config (s : State) : (s.undoAdvance).config = s.config := rfl
@[simp] theorem undoAdvance_rngDraws (s : State) : (s.undoAdvance).rngDraws = s.rngDraws := rfl
@[simp] theorem undoAdvance_memory (s : State) : (s.undoAdvance).memory = s.memory := rfl
@[simp] theorem undoAdvance_V (s : State) : (s.undoAdvance).V = s.V := rfl
@[simp] theorem undoAdvance_I (s : State) : (s.undoAdvance).I = s.I := rfl
@[simp] theorem undoAdvance_PC (s : State) : (s.undoAdvance).PC = s.PC - 2 := rfl
@[simp] theorem undoAdvance_stack (s : State) : (s.undoAdvance).stack = s.stack := rfl
@[simp] theorem undoAdvance_DT (s : State) : (s.undoAdvance).DT = s.DT := rfl
@[simp] theorem undoAdvance_ST (s : State) : (s.undoAdvance).ST = s.ST := rfl
@[simp] theorem undoAdvance_display (s : State) : (s.undoAdvance).display = s.display := rfl
@[simp] theorem undoAdvance_displayDirty (s : State) : (s.undoAdvance).displayDirty = s.displayDirty := rfl
@[simp] theorem undoAdvance_keys (s : State) : (s.undoAdvance).keys = s.keys := rfl
@[simp] theorem undoAdvance_awaitingKey (s : State) : (s.undoAdvance).awaitingKey = s.awaitingKey := rfl
@[simp] theorem undoAdvance_fault (s : State) : (s.undoAdvance).fault = s.fault := rfl
@[simp] theorem undoAdvance_reg (s : State) (j : RegIx) : (s.undoAdvance).reg j = s.reg j := rfl
@[simp] theorem undoAdvance_readByte (s : State) (i : Nat) : (s.undoAdvance).readByte i = s.readByte i := rfl

/-! ### `State.push` -/
@[simp] theorem push_config (s : State) (v : Word) : (s.push v).config = s.config := rfl
@[simp] theorem push_rngDraws (s : State) (v : Word) : (s.push v).rngDraws = s.rngDraws := rfl
@[simp] theorem push_memory (s : State) (v : Word) : (s.push v).memory = s.memory := rfl
@[simp] theorem push_V (s : State) (v : Word) : (s.push v).V = s.V := rfl
@[simp] theorem push_I (s : State) (v : Word) : (s.push v).I = s.I := rfl
@[simp] theorem push_PC (s : State) (v : Word) : (s.push v).PC = s.PC := rfl
@[simp] theorem push_stack (s : State) (v : Word) : (s.push v).stack = s.stack ++ [v] := rfl
@[simp] theorem push_DT (s : State) (v : Word) : (s.push v).DT = s.DT := rfl
@[simp] theorem push_ST (s : State) (v : Word) : (s.push v).ST = s.ST := rfl
@[simp] theorem push_display (s : State) (v : Word) : (s.push v).display = s.display := rfl
@[simp] theorem push_displayDirty (s : State) (v : Word) : (s.push v).displayDirty = s.displayDirty := rfl
@[simp] theorem push_keys (s : State) (v : Word) : (s.push v).keys = s.keys := rfl
@[simp] theorem push_awaitingKey (s : State) (v : Word) : (s.push v).awaitingKey = s.awaitingKey := rfl
@[simp] theorem push_fault (s : State) (v : Word) : (s.push v).fault = s.fault := rfl
@[simp] theorem push_reg (s : State) (v : Word) (j : RegIx) : (s.push v).reg j = s.reg j := rfl
@[simp] theorem push_readByte (s : State) (v : Word) (i : Nat) : (s.push v).readByte i = s.readByte i := rfl

/-! ### `State.tick` -/
@[simp] theorem tick_config (s : State) : (s.tick).config = s.config := rfl
@[simp] theorem tick_rngDraws (s : State) : (s.tick).rngDraws = s.rngDraws := rfl
@[simp] theorem tick_memory (s : State) : (s.tick).memory = s.memory := rfl
@[simp] theorem tick_V (s : State) : (s.tick).V = s.V := rfl
@[simp] theorem tick_I (s : State) : (s.tick).I = s.I := rfl
@[simp] theorem tick_PC (s : State) : (s.tick).PC = s.PC := rfl
@[simp] theorem tick_stack (s : State) : (s.tick).stack = s.stack := rfl
@[simp] theorem tick_DT (s : State) : (s.tick).DT = countDown s.DT := rfl
@[simp] theorem tick_ST (s : State) : (s.tick).ST = countDown s.ST := rfl
@[simp] theorem tick_display (s : State) : (s.tick).display = s.display := rfl
@[simp] theorem tick_displayDirty (s : State) : (s.tick).displayDirty = s.displayDirty := rfl
@[simp] theorem tick_keys (s : State) : (s.tick).keys = s.keys := rfl
@[simp] theorem tick_awaitingKey (s : State) : (s.tick).awaitingKey = s.awaitingKey := rfl
@[simp] theorem tick_fault (s : State) : (s.tick).fault = s.fault := rfl
@[simp] theorem tick_reg (s : State) (j : RegIx) : (s.tick).reg j = s.reg j := rfl
@[simp] theorem tick_readByte (s : State) (i : Nat) : (s.tick).readByte i = s.readByte i := rfl

/-! ### `State.latch` -/
@[simp] theorem latch_config (s : State) (k : FaultKind) (w : Option Word) (a : Option Nat) : (s.latch k w a).config = s.config := rfl
@[simp] theorem latch_rngDraws (s : State) (k : FaultKind) (w : Option Word) (a : Option Nat) : (s.latch k w a).rngDraws = s.rngDraws := rfl
@[simp] theorem latch_memory (s : State) (k : FaultKind) (w : Option Word) (a : Option Nat) : (s.latch k w a).memory = s.memory := rfl
@[simp] theorem latch_V (s : State) (k : FaultKind) (w : Option Word) (a : Option Nat) : (s.latch k w a).V = s.V := rfl
@[simp] theorem latch_I (s : State) (k : FaultKind) (w : Option Word) (a : Option Nat) : (s.latch k w a).I = s.I := rfl
@[simp] theorem latch_PC (s : State) (k : FaultKind) (w : Option Word) (a : Option Nat) : (s.latch k w a).PC = s.PC := rfl
@[simp] theorem latch_stack (s : State) (k : FaultKind) (w : Option Word) (a : Option Nat) : (s.latch k w a).stack = s.stack := rfl
@[simp] theorem latch_DT (s : State) (k : FaultKind) (w : Option Word) (a : Option Nat) : (s.latch k w a).DT = s.DT := rfl
@[simp] theorem latch_ST (s : State) (k : FaultKind) (w : Option Word) (a : Option Nat) : (s.latch k w a).ST = s.ST := rfl
@[simp] theorem latch_display (s : State) (k : FaultKind) (w : Option Word) (a : Option Nat) : (s.latch k w a).display = s.display := rfl
@[simp] theorem latch_displayDirty (s : State) (k : FaultKind) (w : Option Word) (a : Option Nat) : (s.latch k w a).displayDirty = s.displayDirty := rfl
@[simp] theorem latch_keys (s : State) (k : FaultKind) (w : Option Word) (a : Option Nat) : (s.latch k w a).keys = s.keys := rfl
@[simp] theorem latch_awaitingKey (s : State) (k : FaultKind) (w : Option Word) (a : Option Nat) : (s.latch k w a).awaitingKey = s.awaitingKey := rfl
@[simp] theorem latch_fault (s : State) (k : FaultKind) (w : Option Word) (a : Option Nat) : (s.latch k w a).fault = some ⟨k, s.PC, w, a⟩ := rfl
@[simp] theorem latch_reg (s : State) (k : FaultKind) (w : Option Word) (a : Option Nat) (j : RegIx) : (s.latch k w a).reg j = s.reg j := rfl
@[simp] theorem latch_readByte (s : State) (k : FaultKind) (w : Option Word) (a : Option Nat) (i : Nat) : (s.latch k w a).readByte i = s.readByte i := rfl

/-! ### `State.writeRun` -/
@[simp] theorem writeRun_config (s : State) (a : Nat) (vs : List Byte) : (s.writeRun a vs).config = s.config := rfl
@[simp] theorem writeRun_rngDraws (s : State) (a : Nat) (vs : List Byte) : (s.writeRun a vs).rngDraws = s.rngDraws := rfl
@[simp] theorem writeRun_memory (s : State) (a : Nat) (vs : List Byte) : (s.writeRun a vs).memory = s.memory.writeRun s.config.font a vs := rfl
@[simp] theorem writeRun_V (s : State) (a : Nat) (vs : List Byte) : (s.writeRun a vs).V = s.V := rfl
@[simp] theorem writeRun_I (s : State) (a : Nat) (vs : List Byte) : (s.writeRun a vs).I = s.I := rfl
@[simp] theorem writeRun_PC (s : State) (a : Nat) (vs : List Byte) : (s.writeRun a vs).PC = s.PC := rfl
@[simp] theorem writeRun_stack (s : State) (a : Nat) (vs : List Byte) : (s.writeRun a vs).stack = s.stack := rfl
@[simp] theorem writeRun_DT (s : State) (a : Nat) (vs : List Byte) : (s.writeRun a vs).DT = s.DT := rfl
@[simp] theorem writeRun_ST (s : State) (a : Nat) (vs : List Byte) : (s.writeRun a vs).ST = s.ST := rfl
@[simp] theorem writeRun_display (s : State) (a : Nat) (vs : List Byte) : (s.writeRun a vs).display = s.display := rfl
@[simp] theorem writeRun_displayDirty (s : State) (a : Nat) (vs : List Byte) : (s.writeRun a vs).displayDirty = s.displayDirty := rfl
@[simp] theorem writeRun_keys (s : State) (a : Nat) (vs : List Byte) : (s.writeRun a vs).keys = s.keys := rfl
@[simp] theorem writeRun_awaitingKey (s : State) (a : Nat) (vs : List Byte) : (s.writeRun a vs).awaitingKey = s.awaitingKey := rfl
@[simp] theorem writeRun_fault (s : State) (a : Nat) (vs : List Byte) : (s.writeRun a vs).fault = s.fault := rfl
@[simp] theorem writeRun_reg (s : State) (a : Nat) (vs : List Byte) (j : RegIx) : (s.writeRun a vs).reg j = s.reg j := rfl

/-! ### Reading a register after writing one -/

@[simp] theorem setReg_reg_self (s : State) (x : RegIx) (v : Byte) : (s.setReg x v).reg x = v := by
  simp [reg, setReg, Vector.get_eq_getElem]

theorem setReg_reg_ne (s : State) (v : Byte) {x j : RegIx} (h : j ≠ x) : (s.setReg x v).reg j = s.reg j := by
  have : x.val ≠ j.val := fun e => h (Fin.ext e.symm)
  simp [reg, setReg, Vector.get_eq_getElem, this]

/-- Every register after writing one. -/
theorem setReg_reg (s : State) (x j : RegIx) (v : Byte) : (s.setReg x v).reg j = if j = x then v else s.reg j := by
  split
  · next h => rw [h, setReg_reg_self]
  · next h => exact setReg_reg_ne s v h

/-- Two states agree in their registers when they agree register by register. -/
theorem V_ext {s t : State} (h : ∀ j, t.reg j = s.reg j) : t.V = s.V := by
  apply Vector.ext
  intro i hi
  simpa [reg, Vector.get_eq_getElem] using h ⟨i, hi⟩

/-- Every latch after writing one. -/
theorem setKey_get (s : State) (k j : Fin 16) (b : Bool) : (s.setKey k b).keys.get j = if j = k then b else s.keys.get j := by
  by_cases h : j = k
  · simp [h, setKey, Vector.get_eq_getElem]
  · have : k.val ≠ j.val := fun e => h (Fin.ext e.symm)
    simp [h, setKey, Vector.get_eq_getElem, this]

end Sys2Proof.Machine.State
end

