-- ==== Sys2Proof/Laws/Ops.lean ====
section
/-! SUPPORT. One lemma per shared operation: everything it can do, for the proofs to cite instead of unfolding it. -/

namespace Sys2Proof.Machine

/-! ### Arithmetic of PC -/

/-- Undoing the fetch's advance gives the state back (R97). -/
theorem undoAdvance_advance (s : State) : s.advance.undoAdvance = s := by
  simp [State.undoAdvance, State.advance, State.setPC]

/-- A count-down stops at 0 (R95). -/
theorem countDown_toNat (t : Byte) : (countDown t).toNat = t.toNat - 1 := by
  unfold countDown
  split
  · next h => simp [h]
  · next h =>
    have h0 : t.toNat ≠ 0 := fun e => h (BitVec.eq_of_toNat_eq (by simpa using e))
    have := t.isLt
    rw [BitVec.toNat_sub]
    simp
    omega

/-! ### Raising and skipping -/

/-- A raise ends in the state of the step's start with the latch set (R97, R271). -/
theorem raise_eq (k : FaultKind) (i : Instr) (addr : Option Nat) (s : State) :
    raise k i addr s = .next { s with PC := s.PC - 2, fault := some ⟨k, s.PC - 2, some (encode i), addr⟩ } := rfl

/-- A raise right after the fetch changes nothing but the latch (R97). -/
theorem raise_advance (k : FaultKind) (i : Instr) (addr : Option Nat) (s : State) :
    raise k i addr s.advance = .next (s.setFault (some ⟨k, s.PC, some (encode i), addr⟩)) := by
  have h := undoAdvance_advance s
  simp [raise, State.latch, h]

/-- A skip moves PC by 2 or by nothing, and nothing else (R134). -/
theorem skipIf_eq (c : Bool) (s : State) : skipIf c s = .next (s.setPC (if c then s.PC + 2 else s.PC)) := by
  cases c <;> rfl

/-- An indexed access runs in range and raises out of range (R171). -/
theorem withIndexed_cases (k : Nat) (i : Instr) (f : State → Result) (s : State) :
    (s.indexInRange k = true ∧ withIndexed k i f s = f s) ∨
    (s.indexInRange k = false ∧ withIndexed k i f s = raise .memoryOutOfBounds i (some s.indexFaultAddr) s) := by
  unfold withIndexed
  cases s.indexInRange k <;> simp

/-- The range check in numbers (R55). -/
theorem indexInRange_iff (s : State) (k : Nat) : s.indexInRange k = true ↔ k = 0 ∨ s.I.toNat + k ≤ memSize := by
  simp only [State.indexInRange, memSize, Bool.or_eq_true, beq_iff_eq, decide_eq_true_eq]
  omega

/-- A key instruction runs on an index up to 0xF and raises above it (R212). -/
theorem withKeyIndex_cases (x : RegIx) (i : Instr) (f : Fin 16 → State → Result) (s : State) :
    (∃ k : Fin 16, (s.reg x).toNat = k.val ∧ withKeyIndex x i f s = f k s) ∨
    (0xF < (s.reg x).toNat ∧ withKeyIndex x i f s = raise .keyIndexOutOfRange i (some (s.reg x).toNat) s) := by
  unfold withKeyIndex
  split
  · next h => exact .inl ⟨⟨_, h⟩, rfl, rfl⟩
  · next h => exact .inr ⟨by omega, rfl⟩

/-! ### Results with a flag -/

/-- The result goes to V[x], the flag to VF last, every other register stays (R141). -/
theorem setResultFlag_reg (s : State) (x j : RegIx) (v : Byte) (b : Bool) :
    (s.setResultFlag x v b).reg j = if j = VF then flagByte b else if j = x then v else s.reg j := by
  simp only [State.setResultFlag, State.setReg_reg]

/-- Only registers change. -/
theorem setResultFlag_eq (s : State) (x : RegIx) (v : Byte) (b : Bool) :
    s.setResultFlag x v b = { s with V := (s.setResultFlag x v b).V } := rfl

/-! ### Runs of bytes -/

/-- A read after a run of writes: inside the run the byte written there, outside it the byte as before. -/
theorem readByte_writeRun (s : State) (a b : Nat) (vs : List Byte) (hm : s.memory.Pairwise (fun c d => c.1 < d.1)) :
    (s.writeRun a vs).readByte b = if a ≤ b then (vs[b - a]?).getD (s.readByte b) else s.readByte b :=
  Memory.read_writeRun s.config.font s.memory a b vs hm

theorem readByte_writeRun_outside (s : State) (a b : Nat) (vs : List Byte)
    (hm : s.memory.Pairwise (fun c d => c.1 < d.1)) (hb : b < a ∨ a + vs.length ≤ b) :
    (s.writeRun a vs).readByte b = s.readByte b :=
  Memory.read_writeRun_outside s.config.font s.memory a b vs hm hb

theorem regsUpTo_length (s : State) (x : RegIx) : (s.regsUpTo x).length = x.val + 1 := by
  have := x.isLt
  simp only [State.regsUpTo, List.length_take, Vector.length_toList]
  omega

theorem bcdDigits_length (v : Byte) : (bcdDigits v).length = 3 := rfl

theorem regsUpTo_getElem (s : State) (x j : RegIx) (h : j ≤ x) : (s.regsUpTo x)[j.val]? = some (s.reg j) := by
  have := j.isLt
  have h' : j.val < x.val + 1 := by have : j.val ≤ x.val := h; omega
  simp [State.regsUpTo, h', State.reg, Vector.get_eq_getElem]

theorem loadRegsUpTo_reg (s : State) (x j : RegIx) :
    (s.loadRegsUpTo x).reg j = if j ≤ x then s.readByte (s.indexAddr + j.val) else s.reg j := by
  simp [State.loadRegsUpTo, State.reg, Vector.get_eq_getElem]

/-! ### The display -/

/-- Every cell after toggling one. -/
theorem cell_toggleCell (d : Display) (r r' : Fin displayH) (c c' : Fin displayW) :
    cell (toggleCell d r c) r' c' = if r' = r ∧ c' = c then !cell d r c else cell d r' c' := by
  simp only [cell, toggleCell, Vector.get_eq_getElem, Vector.getElem_set]
  by_cases hr : r' = r
  · subst hr
    by_cases hc : c' = c
    · subst hc; simp
    · have : c.val ≠ c'.val := fun e => hc (Fin.ext e.symm)
      simp [hc, this]
  · have : r.val ≠ r'.val := fun e => hr (Fin.ext e.symm)
    simp [hr, this]

/-- Two displays that agree cell by cell are equal. -/
theorem display_ext {d e : Display} (h : ∀ r c, cell d r c = cell e r c) : d = e := by
  apply Vector.ext
  intro i hi
  apply Vector.ext
  intro j hj
  simpa [cell, Vector.get_eq_getElem] using h ⟨i, hi⟩ ⟨j, hj⟩

theorem cell_clearDisplay (r : Fin displayH) (c : Fin displayW) : cell clearDisplay r c = false := by
  simp [cell, clearDisplay, Vector.get_eq_getElem]

/-- A blit writes the display, its dirty bit and VF, and nothing else (R193, R195). -/
theorem blit_eq (s : State) (cx cy : Byte) (sprite : List Byte) :
    s.blit cx cy sprite = { s with
      display := (blitRows cx cy 0 sprite ⟨s.display, false⟩).display
      displayDirty := true
      V := s.V.set 15 (flagByte (blitRows cx cy 0 sprite ⟨s.display, false⟩).collided) (by decide) } := rfl

end Sys2Proof.Machine
end

