-- ==== Sys2Proof/Laws/Display.lean ====
section
/-! SUPPORT. What the blit of R193 does to a cell and to the collision flag, loop by loop. -/

namespace Sys2Proof.Machine

/-- The sprite row at `row` with byte `b`, drawn at (cx, cy), sets the cell (r, c) by one of its columns `cols`. -/
def rowSets (cx cy : Byte) (row : Nat) (b : Byte) (cols : List Nat) (r : Fin displayH) (c : Fin displayW) : Prop :=
  ∃ col ∈ cols, b.getLsbD (7 - col) = true ∧ r = blitRowAt cy row ∧ c = blitColAt cx col

/-- The sprite's rows, numbered from `row`, set the cell (r, c). -/
def rowsSet (cx cy : Byte) (row : Nat) (bs : List Byte) (r : Fin displayH) (c : Fin displayW) : Prop :=
  ∃ k b, bs[k]? = some b ∧ rowSets cx cy (row + k) b (List.range 8) r c

/-- Sprite columns fall on different cells. -/
theorem blitColAt_inj {cx : Byte} {p q : Nat} (hp : p < 8) (hq : q < 8) (h : blitColAt cx p = blitColAt cx q) : p = q := by
  have := congrArg Fin.val h
  simp only [blitColAt, displayW] at this
  omega

/-- Sprite rows fall on different rows. -/
theorem blitRowAt_inj {cy : Byte} {p q : Nat} (hp : p < 32) (hq : q < 32) (h : blitRowAt cy p = blitRowAt cy q) : p = q := by
  have := congrArg Fin.val h
  simp only [blitRowAt, displayH] at this
  omega

/-- R193's inner loop over any of the columns: it toggles the cells it sets, and collides where one of them was on. -/
theorem foldl_blitPixel (cx cy : Byte) (row : Nat) (b : Byte) (cols : List Nat) (hn : cols.Nodup) (hl : ∀ p ∈ cols, p < 8)
    (d : BlitState) :
    (∀ r c, (rowSets cx cy row b cols r c →
        cell (cols.foldl (blitPixel cx cy row b) d).display r c = !cell d.display r c) ∧
      (¬ rowSets cx cy row b cols r c → cell (cols.foldl (blitPixel cx cy row b) d).display r c = cell d.display r c)) ∧
    ((cols.foldl (blitPixel cx cy row b) d).collided = true ↔
      d.collided = true ∨ ∃ r c, rowSets cx cy row b cols r c ∧ cell d.display r c = true) := by
  induction cols generalizing d with
  | nil => simp [rowSets]
  | cons p ps ih =>
    obtain ⟨hp, hps⟩ := List.nodup_cons.mp hn
    have hl' : ∀ q ∈ ps, q < 8 := fun q hq => hl q (List.mem_cons_of_mem _ hq)
    obtain ⟨ihc, ihf⟩ := ih hps hl' (blitPixel cx cy row b d p)
    simp only [List.foldl_cons]
    by_cases hb : b.getLsbD (7 - p) = true
    · have hd : blitPixel cx cy row b d p =
          ⟨toggleCell d.display (blitRowAt cy row) (blitColAt cx p), d.collided || cell d.display (blitRowAt cy row) (blitColAt cx p)⟩ := by
        simp [blitPixel, hb]
      have hout : ∀ r c, rowSets cx cy row b ps r c → ¬ (r = blitRowAt cy row ∧ c = blitColAt cx p) := by
        rintro r c ⟨q, hq, -, -, hc⟩ ⟨-, hc'⟩
        exact hp (blitColAt_inj (hl p (List.mem_cons_self ..)) (hl' q hq) (hc'.symm.trans hc) ▸ hq)
      have hcons : ∀ r c, rowSets cx cy row b (p :: ps) r c ↔
          (r = blitRowAt cy row ∧ c = blitColAt cx p) ∨ rowSets cx cy row b ps r c := by
        simp [rowSets, hb]
      rw [hd] at ihc ihf ⊢
      refine ⟨fun r c => ⟨fun h => ?_, fun h => ?_⟩, ihf.trans ?_⟩
      · rcases (hcons r c).mp h with h | h
        · rw [(ihc r c).2 fun h' => hout r c h' h, cell_toggleCell, if_pos h, h.1, h.2]
        · rw [(ihc r c).1 h, cell_toggleCell, if_neg (hout r c h)]
      · have h' : ¬ ((r = blitRowAt cy row ∧ c = blitColAt cx p) ∨ rowSets cx cy row b ps r c) := fun e => h ((hcons r c).mpr e)
        rw [(ihc r c).2 fun e => h' (.inr e), cell_toggleCell, if_neg fun e => h' (.inl e)]
      · simp only [Bool.or_eq_true, or_assoc]
        refine or_congr_right ⟨?_, ?_⟩
        · rintro (h | ⟨r, c, h, hc⟩)
          · exact ⟨_, _, (hcons _ _).mpr (.inl ⟨rfl, rfl⟩), h⟩
          · rw [cell_toggleCell, if_neg (hout r c h)] at hc
            exact ⟨r, c, (hcons _ _).mpr (.inr h), hc⟩
        · rintro ⟨r, c, h, hc⟩
          rcases (hcons r c).mp h with ⟨rfl, rfl⟩ | h
          · exact .inl hc
          · exact .inr ⟨r, c, h, by rw [cell_toggleCell, if_neg (hout r c h), hc]⟩
    · have hd : blitPixel cx cy row b d p = d := by simp [blitPixel, hb]
      have hcons : ∀ r c, rowSets cx cy row b (p :: ps) r c ↔ rowSets cx cy row b ps r c := by simp [rowSets, hb]
      rw [hd] at ihc ihf ⊢
      simp only [hcons]
      exact ⟨ihc, ihf⟩

/-- R193's inner loop. -/
theorem blitRow_spec (cx cy : Byte) (row : Nat) (b : Byte) (d : BlitState) :
    (∀ r c, (rowSets cx cy row b (List.range 8) r c → cell (blitRow cx cy row b d).display r c = !cell d.display r c) ∧
      (¬ rowSets cx cy row b (List.range 8) r c → cell (blitRow cx cy row b d).display r c = cell d.display r c)) ∧
    ((blitRow cx cy row b d).collided = true ↔
      d.collided = true ∨ ∃ r c, rowSets cx cy row b (List.range 8) r c ∧ cell d.display r c = true) :=
  foldl_blitPixel cx cy row b (List.range 8) List.nodup_range (fun _ h => List.mem_range.mp h) d

/-- R193's outer loop, over at most 32 rows: it toggles the cells the sprite sets, and collides where one of them was on. -/
theorem blitRows_spec (cx cy : Byte) (bs : List Byte) (row : Nat) (hl : row + bs.length ≤ 32) (d : BlitState) :
    (∀ r c, (rowsSet cx cy row bs r c → cell (blitRows cx cy row bs d).display r c = !cell d.display r c) ∧
      (¬ rowsSet cx cy row bs r c → cell (blitRows cx cy row bs d).display r c = cell d.display r c)) ∧
    ((blitRows cx cy row bs d).collided = true ↔
      d.collided = true ∨ ∃ r c, rowsSet cx cy row bs r c ∧ cell d.display r c = true) := by
  induction bs generalizing row d with
  | nil => simp [rowsSet, blitRows]
  | cons b bs ih =>
    simp only [List.length_cons] at hl
    obtain ⟨ihc, ihf⟩ := ih (row + 1) (by omega) (blitRow cx cy row b d)
    obtain ⟨rc, rf⟩ := blitRow_spec cx cy row b d
    have hcons : ∀ r c, rowsSet cx cy row (b :: bs) r c ↔
        rowSets cx cy row b (List.range 8) r c ∨ rowsSet cx cy (row + 1) bs r c := by
      intro r c
      constructor
      · rintro ⟨k, v, hk, h⟩
        cases k with
        | zero => simp at hk; subst hk; exact .inl h
        | succ k => exact .inr ⟨k, v, by simpa using hk, by rwa [show row + 1 + k = row + (k + 1) by omega]⟩
      · rintro (h | ⟨k, v, hk, h⟩)
        · exact ⟨0, b, by simp, h⟩
        · exact ⟨k + 1, v, by simpa using hk, by rwa [show row + (k + 1) = row + 1 + k by omega]⟩
    have hout : ∀ r c, rowsSet cx cy (row + 1) bs r c → ¬ rowSets cx cy row b (List.range 8) r c := by
      rintro r c ⟨k, v, hk, _, -, -, hr, -⟩ ⟨_, -, -, hr', -⟩
      have hkl : k < bs.length := (List.getElem?_eq_some_iff.mp hk).1
      have := blitRowAt_inj (by omega) (by omega) (hr.symm.trans hr')
      omega
    simp only [blitRows]
    refine ⟨fun r c => ⟨fun h => ?_, fun h => ?_⟩, ihf.trans ?_⟩
    · rcases (hcons r c).mp h with h | h
      · rw [(ihc r c).2 fun h' => hout r c h' h, (rc r c).1 h]
      · rw [(ihc r c).1 h, (rc r c).2 (hout r c h)]
    · have h' : ¬ (rowSets cx cy row b (List.range 8) r c ∨ rowsSet cx cy (row + 1) bs r c) := fun e => h ((hcons r c).mpr e)
      rw [(ihc r c).2 fun e => h' (.inr e), (rc r c).2 fun e => h' (.inl e)]
    · rw [rf, or_assoc]
      refine or_congr_right ⟨?_, ?_⟩
      · rintro (⟨r, c, h, hc⟩ | ⟨r, c, h, hc⟩)
        · exact ⟨r, c, (hcons r c).mpr (.inl h), hc⟩
        · rw [(rc r c).2 (hout r c h)] at hc
          exact ⟨r, c, (hcons r c).mpr (.inr h), hc⟩
      · rintro ⟨r, c, h, hc⟩
        rcases (hcons r c).mp h with h | h
        · exact .inl ⟨r, c, h, hc⟩
        · exact .inr ⟨r, c, h, by rw [(rc r c).2 (hout r c h), hc]⟩

/-- The sprite of `SpriteSets` is the run of bytes DRW reads (R192). -/
theorem spriteSets_iff (s : State) (cx cy : Byte) (n : Nat) (r : Fin displayH) (c : Fin displayW) :
    SpriteSets s cx cy n r c ↔ rowsSet cx cy 0 (s.readRun s.indexAddr n) r c := by
  have hg : ∀ k v, (s.readRun s.indexAddr n)[k]? = some v ↔ k < n ∧ s.readByte (s.I.toNat + k) = v := by
    intro k v
    by_cases hk : k < n <;> simp [State.readRun, Memory.readRun, State.readByte, State.indexAddr, hk]
  simp only [SpriteSets, rowsSet, rowSets, hg, List.mem_range, Fin.ext_iff, blitRowAt, blitColAt, Nat.zero_add]
  constructor
  · rintro ⟨row, col, hr, hc, hb, h1, h2⟩
    exact ⟨row, _, ⟨hr, rfl⟩, col, hc, hb, h1, h2⟩
  · rintro ⟨row, _, ⟨hr, rfl⟩, col, hc, hb, h1, h2⟩
    exact ⟨row, col, hr, hc, hb, h1, h2⟩

end Sys2Proof.Machine
end

