-- ==== Sys2Proof/Laws/PerInstr.lean ====
section
/-! SUPPORT. A law of every instruction, one lemma per constructor: its word is of its own row of opcode_table.json. -/

namespace Sys2Proof.Laws.FitsItsRow

/-- The instruction's word, under the mask of the table's row of its mnemonic, is the row's fixed bits. -/
def Statement (i : Instr) : Prop := ∃ r ∈ opcodeTable, r.mnemonic = i.mnemonic ∧ r.fits (encode i) = true

/-- A row and the bits the word has under its mask make the law. -/
theorem of_row {i : Instr} (r : OpcodeRow) (hr : r ∈ opcodeTable) (hm : r.mnemonic = i.mnemonic)
    (hb : encode i &&& r.mask = r.bits) : Statement i :=
  ⟨r, hr, hm, by simpa [OpcodeRow.fits] using hb⟩

/-- The top nibble of a word is what the mask 0xF000 keeps. -/
theorem and_top (w : Word) (op : Nat) (h : w.toNat / 0x1000 = op) : w &&& 0xF000 = BitVec.ofNat 16 (op * 0x1000) := by
  have e : w &&& 0xF000#16 = (w >>> 12) <<< 12 := by
    ext i hi
    interval_cases i <;> simp
  have hw := w.isLt
  apply BitVec.eq_of_toNat_eq
  rw [show w &&& 0xF000 = w &&& 0xF000#16 from rfl, e]
  simp only [BitVec.toNat_shiftLeft, BitVec.toNat_ushiftRight, BitVec.toNat_ofNat, Nat.shiftLeft_eq, Nat.shiftRight_eq_div_pow]
  omega

theorem and_top_nnn (op : Nat) (nnn : BitVec 12) (h : op < 16) : wordNNN op nnn &&& 0xF000 = BitVec.ofNat 16 (op * 0x1000) := by
  have := nnn.isLt
  refine and_top _ op ?_
  simp only [wordNNN, BitVec.toNat_ofNat]
  omega

theorem and_top_xnn (op : Nat) (x : RegIx) (nn : Byte) (h : op < 16) :
    wordXNN op x nn &&& 0xF000 = BitVec.ofNat 16 (op * 0x1000) := by
  have := nn.isLt
  have := x.isLt
  refine and_top _ op ?_
  simp only [wordXNN, BitVec.toNat_ofNat]
  omega

theorem and_top_xyn (op : Nat) (x y : RegIx) (n : Nat) (h : op < 16) (hn : n < 16) :
    wordXYN op x y n &&& 0xF000 = BitVec.ofNat 16 (op * 0x1000) := by
  have := x.isLt
  have := y.isLt
  refine and_top _ op ?_
  simp only [wordXYN, BitVec.toNat_ofNat]
  omega

theorem cls : Statement .cls := of_row ⟨"CLS", 0x00E0, 0xFFFF⟩ (by decide) rfl rfl
theorem ret : Statement .ret := of_row ⟨"RET", 0x00EE, 0xFFFF⟩ (by decide) rfl rfl
theorem sys (nnn : BitVec 12) : Statement (.sys nnn) :=
  of_row ⟨"SYS_nnn", 0x0000, 0xF000⟩ (by decide) rfl (and_top_nnn 0x0 nnn (by decide))
theorem jp (nnn : BitVec 12) : Statement (.jp nnn) :=
  of_row ⟨"JP_nnn", 0x1000, 0xF000⟩ (by decide) rfl (and_top_nnn 0x1 nnn (by decide))
theorem call (nnn : BitVec 12) : Statement (.call nnn) :=
  of_row ⟨"CALL_nnn", 0x2000, 0xF000⟩ (by decide) rfl (and_top_nnn 0x2 nnn (by decide))
theorem seImm (x : RegIx) (nn : Byte) : Statement (.seImm x nn) :=
  of_row ⟨"SE_Vx__nn", 0x3000, 0xF000⟩ (by decide) rfl (and_top_xnn 0x3 x nn (by decide))
theorem sneImm (x : RegIx) (nn : Byte) : Statement (.sneImm x nn) :=
  of_row ⟨"SNE_Vx__nn", 0x4000, 0xF000⟩ (by decide) rfl (and_top_xnn 0x4 x nn (by decide))
theorem seReg (x y : RegIx) : Statement (.seReg x y) :=
  of_row ⟨"SE_Vx__Vy", 0x5000, 0xF00F⟩ (by decide) rfl ((by decide : ∀ x y : RegIx, encode (.seReg x y) &&& 0xF00F = 0x5000) x y)
theorem sneReg (x y : RegIx) : Statement (.sneReg x y) :=
  of_row ⟨"SNE_Vx__Vy", 0x9000, 0xF00F⟩ (by decide) rfl ((by decide : ∀ x y : RegIx, encode (.sneReg x y) &&& 0xF00F = 0x9000) x y)
theorem ldImm (x : RegIx) (nn : Byte) : Statement (.ldImm x nn) :=
  of_row ⟨"LD_Vx__nn", 0x6000, 0xF000⟩ (by decide) rfl (and_top_xnn 0x6 x nn (by decide))
theorem addImm (x : RegIx) (nn : Byte) : Statement (.addImm x nn) :=
  of_row ⟨"ADD_Vx__nn", 0x7000, 0xF000⟩ (by decide) rfl (and_top_xnn 0x7 x nn (by decide))
theorem ldReg (x y : RegIx) : Statement (.ldReg x y) :=
  of_row ⟨"LD_Vx__Vy", 0x8000, 0xF00F⟩ (by decide) rfl ((by decide : ∀ x y : RegIx, encode (.ldReg x y) &&& 0xF00F = 0x8000) x y)
theorem orReg (x y : RegIx) : Statement (.orReg x y) :=
  of_row ⟨"OR_Vx__Vy", 0x8001, 0xF00F⟩ (by decide) rfl ((by decide : ∀ x y : RegIx, encode (.orReg x y) &&& 0xF00F = 0x8001) x y)
theorem andReg (x y : RegIx) : Statement (.andReg x y) :=
  of_row ⟨"AND_Vx__Vy", 0x8002, 0xF00F⟩ (by decide) rfl ((by decide : ∀ x y : RegIx, encode (.andReg x y) &&& 0xF00F = 0x8002) x y)
theorem xorReg (x y : RegIx) : Statement (.xorReg x y) :=
  of_row ⟨"XOR_Vx__Vy", 0x8003, 0xF00F⟩ (by decide) rfl ((by decide : ∀ x y : RegIx, encode (.xorReg x y) &&& 0xF00F = 0x8003) x y)
theorem addReg (x y : RegIx) : Statement (.addReg x y) :=
  of_row ⟨"ADD_Vx__Vy", 0x8004, 0xF00F⟩ (by decide) rfl ((by decide : ∀ x y : RegIx, encode (.addReg x y) &&& 0xF00F = 0x8004) x y)
theorem sub (x y : RegIx) : Statement (.sub x y) :=
  of_row ⟨"SUB_Vx__Vy", 0x8005, 0xF00F⟩ (by decide) rfl ((by decide : ∀ x y : RegIx, encode (.sub x y) &&& 0xF00F = 0x8005) x y)
theorem shr (x y : RegIx) : Statement (.shr x y) :=
  of_row ⟨"SHR_Vx____Vy", 0x8006, 0xF00F⟩ (by decide) rfl ((by decide : ∀ x y : RegIx, encode (.shr x y) &&& 0xF00F = 0x8006) x y)
theorem subn (x y : RegIx) : Statement (.subn x y) :=
  of_row ⟨"SUBN_Vx__Vy", 0x8007, 0xF00F⟩ (by decide) rfl ((by decide : ∀ x y : RegIx, encode (.subn x y) &&& 0xF00F = 0x8007) x y)
theorem shl (x y : RegIx) : Statement (.shl x y) :=
  of_row ⟨"SHL_Vx____Vy", 0x800E, 0xF00F⟩ (by decide) rfl ((by decide : ∀ x y : RegIx, encode (.shl x y) &&& 0xF00F = 0x800E) x y)
theorem ldI (nnn : BitVec 12) : Statement (.ldI nnn) :=
  of_row ⟨"LD_I__nnn", 0xA000, 0xF000⟩ (by decide) rfl (and_top_nnn 0xA nnn (by decide))
theorem jpV0 (nnn : BitVec 12) : Statement (.jpV0 nnn) :=
  of_row ⟨"JP_V0__nnn", 0xB000, 0xF000⟩ (by decide) rfl (and_top_nnn 0xB nnn (by decide))
theorem rnd (x : RegIx) (nn : Byte) : Statement (.rnd x nn) :=
  of_row ⟨"RND_Vx__nn", 0xC000, 0xF000⟩ (by decide) rfl (and_top_xnn 0xC x nn (by decide))
theorem drw (x y : RegIx) (n : Fin 16) : Statement (.drw x y n) :=
  of_row ⟨"DRW_Vx__Vy__n", 0xD000, 0xF000⟩ (by decide) rfl (and_top_xyn 0xD x y n.val (by decide) n.isLt)
theorem skp (x : RegIx) : Statement (.skp x) :=
  of_row ⟨"SKP_Vx", 0xE09E, 0xF0FF⟩ (by decide) rfl ((by decide : ∀ x : RegIx, encode (.skp x) &&& 0xF0FF = 0xE09E) x)
theorem sknp (x : RegIx) : Statement (.sknp x) :=
  of_row ⟨"SKNP_Vx", 0xE0A1, 0xF0FF⟩ (by decide) rfl ((by decide : ∀ x : RegIx, encode (.sknp x) &&& 0xF0FF = 0xE0A1) x)
theorem ldXDt (x : RegIx) : Statement (.ldXDt x) :=
  of_row ⟨"LD_Vx__DT", 0xF007, 0xF0FF⟩ (by decide) rfl ((by decide : ∀ x : RegIx, encode (.ldXDt x) &&& 0xF0FF = 0xF007) x)
theorem ldDtX (x : RegIx) : Statement (.ldDtX x) :=
  of_row ⟨"LD_DT__Vx", 0xF015, 0xF0FF⟩ (by decide) rfl ((by decide : ∀ x : RegIx, encode (.ldDtX x) &&& 0xF0FF = 0xF015) x)
theorem ldStX (x : RegIx) : Statement (.ldStX x) :=
  of_row ⟨"LD_ST__Vx", 0xF018, 0xF0FF⟩ (by decide) rfl ((by decide : ∀ x : RegIx, encode (.ldStX x) &&& 0xF0FF = 0xF018) x)
theorem ldXK (x : RegIx) : Statement (.ldXK x) :=
  of_row ⟨"LD_Vx__K", 0xF00A, 0xF0FF⟩ (by decide) rfl ((by decide : ∀ x : RegIx, encode (.ldXK x) &&& 0xF0FF = 0xF00A) x)
theorem addI (x : RegIx) : Statement (.addI x) :=
  of_row ⟨"ADD_I__Vx", 0xF01E, 0xF0FF⟩ (by decide) rfl ((by decide : ∀ x : RegIx, encode (.addI x) &&& 0xF0FF = 0xF01E) x)
theorem ldF (x : RegIx) : Statement (.ldF x) :=
  of_row ⟨"LD_F__Vx", 0xF029, 0xF0FF⟩ (by decide) rfl ((by decide : ∀ x : RegIx, encode (.ldF x) &&& 0xF0FF = 0xF029) x)
theorem ldB (x : RegIx) : Statement (.ldB x) :=
  of_row ⟨"LD_B__Vx", 0xF033, 0xF0FF⟩ (by decide) rfl ((by decide : ∀ x : RegIx, encode (.ldB x) &&& 0xF0FF = 0xF033) x)
theorem ldMemX (x : RegIx) : Statement (.ldMemX x) :=
  of_row ⟨"LD__I___Vx", 0xF055, 0xF0FF⟩ (by decide) rfl ((by decide : ∀ x : RegIx, encode (.ldMemX x) &&& 0xF0FF = 0xF055) x)
theorem ldXMem (x : RegIx) : Statement (.ldXMem x) :=
  of_row ⟨"LD_Vx___I", 0xF065, 0xF0FF⟩ (by decide) rfl ((by decide : ∀ x : RegIx, encode (.ldXMem x) &&& 0xF0FF = 0xF065) x)

end Sys2Proof.Laws.FitsItsRow
end

