-- ==== Sys2Proof/Laws/Serializer.lean ====
section
/-! SUPPORT. The pieces of the blob: its fields' lengths and the bits of a packed byte. -/

namespace Sys2Proof.Machine

theorem be16_length (w : Word) : (be16 w).length = 2 := rfl

/-- Each bit of a packed byte. -/
theorem packByte_bits (f : Nat → Bool) (k : Nat) : (packByte f).getLsbD k = (decide (k < 8) && f k) := by
  have h : ∀ b0 b1 b2 b3 b4 b5 b6 b7 : Bool, ∀ k : Fin 8,
      (BitVec.ofNat 8 ([if b0 then 2 ^ 0 else 0, if b1 then 2 ^ 1 else 0, if b2 then 2 ^ 2 else 0, if b3 then 2 ^ 3 else 0,
        if b4 then 2 ^ 4 else 0, if b5 then 2 ^ 5 else 0, if b6 then 2 ^ 6 else 0, if b7 then 2 ^ 7 else 0] : List Nat).sum).getLsbD k.val
        = [b0, b1, b2, b3, b4, b5, b6, b7].getD k.val false := by decide
  have hp : packByte f = BitVec.ofNat 8 ([if f 0 then 2 ^ 0 else 0, if f 1 then 2 ^ 1 else 0, if f 2 then 2 ^ 2 else 0,
      if f 3 then 2 ^ 3 else 0, if f 4 then 2 ^ 4 else 0, if f 5 then 2 ^ 5 else 0, if f 6 then 2 ^ 6 else 0,
      if f 7 then 2 ^ 7 else 0] : List Nat).sum := rfl
  by_cases hk : k < 8
  · rw [hp, h _ _ _ _ _ _ _ _ ⟨k, hk⟩]
    interval_cases k <;> simp
  · rw [BitVec.getLsbD_of_ge _ _ (by omega)]
    simp [hk]

theorem stackBytes_length (s : State) : s.stackBytes.length = 32 := by
  simp [State.stackBytes, be16, stackLimit]

theorem rowBytes_length (row : Vector Bool displayW) : (rowBytes row).length = 8 := by simp [rowBytes]

theorem displayBytes_length (s : State) : s.displayBytes.length = 256 := by
  simp [State.displayBytes, rowBytes, displayH]

/-- The blob is 4417 bytes (R252). -/
theorem saveState_length (s : State) : s.saveState.length = 4417 := by
  simp [State.saveState, State.saveBody, blobHeader, State.readRun, Memory.length_readRun, memSize, be16, State.keysBytes,
    stackBytes_length, displayBytes_length]

/-- The latches as a Boolean for each number. -/
theorem keyAt_eq (s : State) (k : Fin 16) : s.keyAt k.val = s.keys.get k := by
  simp [State.keyAt, Vector.get_eq_getElem]

/-- An accepted blob loads in every state (R256, R257). -/
theorem load_state_ok (s : State) {b : List Byte} (h : blobAccepted b = true) :
    (HostOp.loadState b).perform s = .ok (s.restore b) := by
  simp [HostOp.perform, State.loadState, h]

end Sys2Proof.Machine
end

