-- ==== Sys2Proof/Laws/Step.lean ====
section
/-! SUPPORT. What an instruction and a step can do, said once. -/

namespace Sys2Proof.Machine

/-- An instruction either raises, with a record of its own word, or ends in a next state that leaves the latch alone. -/
theorem exec_cases (i : Instr) (s : State) :
    (∃ k addr, exec i s = raise k i addr s) ∨ (∃ t, exec i s = .next t ∧ t.fault = s.fault) := by
  cases i
  case ret =>
    simp only [exec, execRet]
    split
    · exact .inl ⟨_, _, rfl⟩
    · exact .inr ⟨_, rfl, rfl⟩
  case call nnn =>
    simp only [exec, execCall]
    split
    · exact .inl ⟨_, _, rfl⟩
    · exact .inr ⟨_, rfl, rfl⟩
  case drw x y n =>
    simp only [exec, execDrw]
    rcases withIndexed_cases n.val (.drw x y n)
      (fun s => .next (s.blit (s.reg x) (s.reg y) (s.readRun s.indexAddr n.val))) s with ⟨_, h⟩ | ⟨_, h⟩
    · exact .inr ⟨_, h, rfl⟩
    · exact .inl ⟨_, _, h⟩
  case ldB x =>
    simp only [exec, execLdB]
    rcases withIndexed_cases 3 (.ldB x) (fun s => .next (s.writeRun s.indexAddr (bcdDigits (s.reg x)))) s with ⟨_, h⟩ | ⟨_, h⟩
    · exact .inr ⟨_, h, rfl⟩
    · exact .inl ⟨_, _, h⟩
  case ldMemX x =>
    simp only [exec, execLdMemX]
    rcases withIndexed_cases (x.val + 1) (.ldMemX x)
      (fun s => .next (s.writeRun s.indexAddr (s.regsUpTo x))) s with ⟨_, h⟩ | ⟨_, h⟩
    · exact .inr ⟨_, h, rfl⟩
    · exact .inl ⟨_, _, h⟩
  case ldXMem x =>
    simp only [exec, execLdXMem]
    rcases withIndexed_cases (x.val + 1) (.ldXMem x) (fun s => .next (s.loadRegsUpTo x)) s with ⟨_, h⟩ | ⟨_, h⟩
    · exact .inr ⟨_, h, rfl⟩
    · exact .inl ⟨_, _, h⟩
  case skp x =>
    simp only [exec, execSkp]
    rcases withKeyIndex_cases x (.skp x) (fun k s => skipIf (s.keys.get k) s) s with ⟨k, _, h⟩ | ⟨_, h⟩
    · exact .inr ⟨_, h.trans (skipIf_eq _ _), rfl⟩
    · exact .inl ⟨_, _, h⟩
  case sknp x =>
    simp only [exec, execSknp]
    rcases withKeyIndex_cases x (.sknp x) (fun k s => skipIf (!s.keys.get k) s) s with ⟨k, _, h⟩ | ⟨_, h⟩
    · exact .inr ⟨_, h.trans (skipIf_eq _ _), rfl⟩
    · exact .inl ⟨_, _, h⟩
  case seImm => exact .inr ⟨_, skipIf_eq _ _, rfl⟩
  case sneImm => exact .inr ⟨_, skipIf_eq _ _, rfl⟩
  case seReg => exact .inr ⟨_, skipIf_eq _ _, rfl⟩
  case sneReg => exact .inr ⟨_, skipIf_eq _ _, rfl⟩
  all_goals exact .inr ⟨_, rfl, rfl⟩

/-- No instruction stops the model. -/
theorem exec_next (i : Instr) (s : State) : ∃ t, exec i s = .next t := by
  rcases exec_cases i s with ⟨k, a, h⟩ | ⟨t, h, _⟩
  · exact ⟨_, h.trans (raise_eq k i a s)⟩
  · exact ⟨t, h⟩

/-- After the fetch, a raised fault is the state of the step's start with the latch set (R97). -/
theorem exec_advance_fault {i : Instr} {s t : State} {r : FaultRecord} (hs : s.fault = none)
    (h : exec i s.advance = .next t) (ht : t.fault = some r) : t = s.setFault (some r) := by
  rcases exec_cases i s.advance with ⟨k, a, h'⟩ | ⟨u, h', hu⟩
  · rw [h', raise_advance] at h
    cases h
    simp only [State.setFault_fault] at ht
    rw [ht]
  · rw [h'] at h
    cases h
    rw [hu, State.advance_fault, hs] at ht
    cases ht

/-- Everything a step that gives a next state can be (R98, R274). -/
theorem step_cases {s t : State} (h : step s = .next t) :
    s.fault = none ∧
    ((s.waits = true ∧ t = s.waitStep) ∨
     (s.waits = false ∧ 0xFFE < s.PC.toNat ∧ t = s.latch .memoryOutOfBounds none (some (max s.PC.toNat 0x1000))) ∨
     (s.Fetches ∧ (∃ e, decode s.fetchWord = .error e) ∧ t = s.latch .illegalOpcode (some s.fetchWord) none) ∨
     (∃ i u, s.FetchesInstr i ∧ exec i s.advance = .next u ∧ t = u.afterExec)) := by
  unfold step cycle at h
  split at h
  · cases h
  · next hf =>
    refine ⟨hf, ?_⟩
    split at h
    · next hw => cases h; exact .inl ⟨hw, rfl⟩
    · next hw =>
      have hw : s.waits = false := by simpa using hw
      unfold fetchAndRun at h
      split at h
      · next hr =>
        have hr : s.PC.toNat ≤ 0xFFE := by simpa [State.fetchInRange] using hr
        split at h
        · next i hd =>
          unfold runInstr at h
          obtain ⟨u, hu⟩ := exec_next i s.advance
          rw [hu] at h
          cases h
          exact .inr (.inr (.inr ⟨i, u, ⟨⟨hf, hw, hr⟩, hd⟩, hu, rfl⟩))
        · next e hd => cases h; exact .inr (.inr (.inl ⟨⟨hf, hw, hr⟩, ⟨e, hd⟩, rfl⟩))
      · next hr =>
        cases h
        exact .inr (.inl ⟨hw, by simpa [State.fetchInRange] using hr, rfl⟩)

/-- From the fetch on, a step always gives a next state. -/
theorem fetchAndRun_next (s : State) : ∃ t, fetchAndRun s = .next t := by
  unfold fetchAndRun
  split
  · split
    · next i _ =>
      obtain ⟨u, hu⟩ := exec_next i s.advance
      exact ⟨u.afterExec, by simp [runInstr, hu]⟩
    · exact ⟨_, rfl⟩
  · exact ⟨_, rfl⟩

/-- With no fault latched a step always gives a next state. -/
theorem step_next {s : State} (hs : s.fault = none) : ∃ t, step s = .next t := by
  unfold step cycle
  rw [hs]
  cases hw : s.waits
  · simpa [hw] using fetchAndRun_next s
  · exact ⟨s.waitStep, rfl⟩

/-- A step that fetches an instruction runs it (R98). -/
theorem step_fetches {s : State} {i : Instr} (h : s.FetchesInstr i) : step s = runInstr i s := by
  have h1 : s.fetchInRange = true := by simpa [State.fetchInRange] using h.in_range
  have h2 : decode s.fetchWord = .ok i := h.decoded
  simp [step, cycle, h.no_fault, h.no_wait, fetchAndRun, h1, h2]

/-- From what the instruction does to what the step does. -/
theorem step_of_exec {s t : State} {i : Instr} (h : s.FetchesInstr i) (he : exec i s.advance = .next t) :
    step s = .next t.afterExec := by
  rw [step_fetches h, runInstr, he]

end Sys2Proof.Machine
end

