-- ==== Sys2Proof/Tests/Slice0.lean ====
section
/-! SUPPORT. Tests: expected results are those of 95_test_vectors.md (its row named at each test) or read off R75's patterns;
and a witness for every statement that has hypotheses. -/

namespace Sys2Proof.Tests

open Sys2Proof Sys2Proof.Machine

/-! ### Helpers -/

/-- The next state of an outcome. -/
def nextOf : Result → Option State
  | .next t => some t
  | .fault _ => none
  | .refused _ => none

/-- The state of an operation that is not refused. -/
def okOf : Except HostError State → Option State
  | .ok t => some t
  | .error _ => none

/-- The error of a refused operation. -/
def errorOf : Except HostError State → Option HostError
  | .ok _ => none
  | .error e => some e

/-- The reset state with some registers set. -/
def regs (l : List (RegIx × Byte)) : State := l.foldl (fun s p => s.setReg p.1 p.2) State.reset

/-- One step of `s` with the word `w` placed at PC. -/
def run (s : State) (w : Nat) : Option State := nextOf (step (s.withFetchWord 16 w))

/-- The reset state with the stack holding `n` entries. -/
def deep (n : Nat) : State := State.reset.setStack (List.replicate n 0x202)

/-- A cleared machine with a sprite at 0x300, I there, V1 and V2 the coordinates. -/
def sprite (x y : Byte) (bytes : List Byte) : State := ((regs [(1, x), (2, y)]).setI 0x300).writeRun 0x300 bytes

/-- The reset machine with another mode and tick parameter. -/
def withMode (m : KeyWaitMode) (ticks : Bool) : State :=
  State.construct { Config.default with keyWaitMode := m, waitTicksTimers := ticks }

/-! ### Well-formedness: the one check refuses its ill-formed terms (R76) -/

theorem test_wf_refuses_sys_cls : (Instr.sys 0x0E0).wf = false := by decide
theorem test_wf_refuses_sys_ret : (Instr.sys 0x0EE).wf = false := by decide
theorem test_wf_accepts_sys : (Instr.sys 0x0E1).wf = true ∧ (Instr.sys 0xFFF).wf = true := by decide

/-! ### Decoding: every constructor by a word written bit by bit from R75's pattern -/

theorem test_decode_flow :
    decodeTableWord 16 0b0000_0000_1110_1110 = some .ret ∧ decodeTableWord 16 0b0000_0000_1110_0001 = some (.sys 0x0E1) ∧
    decodeTableWord 16 0b0001_1010_1011_1100 = some (.jp 0xABC) ∧ decodeTableWord 16 0b0010_0011_0000_0001 = some (.call 0x301) ∧
    decodeTableWord 16 0b1011_0011_0000_0010 = some (.jpV0 0x302) := by decide

theorem test_decode_skips :
    decodeTableWord 16 0b0011_1010_0111_1011 = some (.seImm 0xA 0x7B) ∧
    decodeTableWord 16 0b0100_1010_0111_1011 = some (.sneImm 0xA 0x7B) ∧
    decodeTableWord 16 0b0101_0001_0010_0000 = some (.seReg 1 2) ∧ decodeTableWord 16 0b1001_0001_0010_0000 = some (.sneReg 1 2) ∧
    decodeTableWord 16 0b1110_0001_1001_1110 = some (.skp 1) ∧ decodeTableWord 16 0b1110_0001_1010_0001 = some (.sknp 1) := by decide

theorem test_decode_alu_immediate :
    decodeTableWord 16 0b0110_0001_1010_1011 = some (.ldImm 1 0xAB) ∧ decodeTableWord 16 0b0111_0001_1010_1011 = some (.addImm 1 0xAB) ∧
    decodeTableWord 16 0b1100_0001_0000_1111 = some (.rnd 1 0x0F) := by decide

theorem test_decode_alu_registers :
    decodeTableWord 16 0b1000_0001_0010_0000 = some (.ldReg 1 2) ∧ decodeTableWord 16 0b1000_0001_0010_0001 = some (.orReg 1 2) ∧
    decodeTableWord 16 0b1000_0001_0010_0010 = some (.andReg 1 2) ∧ decodeTableWord 16 0b1000_0001_0010_0011 = some (.xorReg 1 2) ∧
    decodeTableWord 16 0b1000_0001_0010_0100 = some (.addReg 1 2) ∧ decodeTableWord 16 0b1000_0001_0010_0101 = some (.sub 1 2) ∧
    decodeTableWord 16 0b1000_0001_0010_0110 = some (.shr 1 2) ∧ decodeTableWord 16 0b1000_0001_0010_0111 = some (.subn 1 2) ∧
    decodeTableWord 16 0b1000_0001_0010_1110 = some (.shl 1 2) := by decide

theorem test_decode_index_memory :
    decodeTableWord 16 0b1010_0001_0010_0011 = some (.ldI 0x123) ∧ decodeTableWord 16 0b1111_0001_0001_1110 = some (.addI 1) ∧
    decodeTableWord 16 0b1111_0001_0010_1001 = some (.ldF 1) ∧ decodeTableWord 16 0b1111_0001_0011_0011 = some (.ldB 1) ∧
    decodeTableWord 16 0b1111_0001_0101_0101 = some (.ldMemX 1) ∧ decodeTableWord 16 0b1111_0001_0110_0101 = some (.ldXMem 1) := by decide

theorem test_decode_display_timers :
    decodeTableWord 16 0b0000_0000_1110_0000 = some .cls ∧ decodeTableWord 16 0b1101_0001_0010_1111 = some (.drw 1 2 0xF) ∧
    decodeTableWord 16 0b1111_0001_0000_0111 = some (.ldXDt 1) ∧ decodeTableWord 16 0b1111_0001_0001_0101 = some (.ldDtX 1) ∧
    decodeTableWord 16 0b1111_0001_0001_1000 = some (.ldStX 1) ∧ decodeTableWord 16 0b1111_0001_0000_1010 = some (.ldXK 1) := by decide

/-- Section 2.1's illegal words. -/
theorem test_decode_illegal :
    [0x5121, 0x912F, 0x8128, 0x812D, 0x812F, 0xE19F, 0xE100, 0xE1FF, 0xF100, 0xF130, 0xF175, 0xF1FF].all
      (fun w => (decodeTableWord 16 w).isNone) = true := by decide

/-- No opcode is one byte long (R70). -/
theorem test_decode_truncated : decodeBytes [0x12] = .error .truncated := by rfl

/-! ### Flow and skips (sections 2.2, 2.3) -/

theorem test_ret : (run (State.reset.setStack [0x456, 0x202]) 0x00EE).map (fun t => (t.PC, t.stack)) = some (0x202, [0x456]) := by
  decide
/-- L1-5. -/
theorem test_ret_underflow : run State.reset 0x00EE =
    some ((State.reset.withFetchWord 16 0x00EE).setFault (some ⟨.stackUnderflow, 0x200, some 0x00EE, none⟩)) := by decide
/-- F-11. -/
theorem test_sys : run State.reset 0x0123 = some ((State.reset.withFetchWord 16 0x0123).setPC 0x202) := by decide
/-- F-2. -/
theorem test_jp : (run State.reset 0x1FFF).map (·.PC) = some 0xFFF := by decide
/-- F-5. -/
theorem test_call : (run ((deep 15).setPC 0x400) 0x2500).map (fun t => (t.PC, t.stack.length, t.stack.getLast?))
    = some (0x500, 16, some 0x402) := by decide
/-- F-6. -/
theorem test_call_overflow : (run ((deep 16).setPC 0x400) 0x2500).map (fun t => (t.PC, t.stack.length, t.fault))
    = some (0x400, 16, some ⟨.stackOverflow, 0x400, some 0x2500, none⟩) := by decide
/-- F-8. -/
theorem test_jpV0 : (run (regs [(0, 0xFF)]) 0xBFFF).map (·.PC) = some 0x10FE := by decide
/-- S-1, S-2. -/
theorem test_seImm : (run (regs [(1, 0x42)]) 0x3142).map (·.PC) = some 0x204 ∧ (run (regs [(1, 0x41)]) 0x3142).map (·.PC) = some 0x202 := by
  decide
/-- S-3, S-4. -/
theorem test_sneImm : (run (regs [(1, 0x42)]) 0x4142).map (·.PC) = some 0x202 ∧ (run (regs [(1, 0x41)]) 0x4142).map (·.PC) = some 0x204 := by
  decide
/-- S-5, S-6. -/
theorem test_seReg : (run (regs [(1, 7), (2, 7)]) 0x5120).map (·.PC) = some 0x204 ∧
    (run (regs [(1, 7), (2, 8)]) 0x5120).map (·.PC) = some 0x202 := by decide
/-- S-7, S-8. -/
theorem test_sneReg : (run (regs [(1, 7), (2, 8)]) 0x9120).map (·.PC) = some 0x204 ∧
    (run (regs [(1, 7), (2, 7)]) 0x9120).map (·.PC) = some 0x202 := by decide

/-! ### Arithmetic (section 2.4): V1 and VF after -/

/-- V1 and VF after one word, from V1, V2 and VF. -/
def alu (v1 v2 vf : Byte) (w : Nat) : Option (Byte × Byte) := (run (regs [(1, v1), (2, v2), (15, vf)]) w).map fun t => (t.reg 1, t.reg 15)

/-- A-1. -/
theorem test_ldImm : alu 0 0 0 0x61AB = some (0xAB, 0) := by decide
/-- A-2. -/
theorem test_addImm : alu 0xFF 0 0x55 0x7101 = some (0, 0x55) := by decide
/-- A-4. -/
theorem test_ldReg : alu 0x11 0x22 0x77 0x8120 = some (0x22, 0x77) := by decide
/-- A-5. -/
theorem test_orReg : alu 0x0F 0xF0 0x77 0x8121 = some (0xFF, 0x77) := by decide
/-- A-6. -/
theorem test_andReg : alu 0x3C 0x0F 0x77 0x8122 = some (0x0C, 0x77) := by decide
/-- A-7. -/
theorem test_xorReg : alu 0xFF 0x0F 0x77 0x8123 = some (0xF0, 0x77) := by decide
/-- A-8, A-10, A-32. -/
theorem test_addReg : alu 0xFF 1 0 0x8124 = some (0, 1) ∧ alu 0x7F 0x80 1 0x8124 = some (0xFF, 0) ∧ alu 1 0 0xFF 0x81F4 = some (0, 1) := by
  decide
/-- A-28. -/
theorem test_addReg_VF : (alu 0xF5 0 0x10 0x8F14).map (·.2) = some 1 := by decide
/-- A-13, A-14. -/
theorem test_sub : alu 3 5 1 0x8125 = some (0xFE, 0) ∧ alu 7 7 0 0x8125 = some (0, 1) := by decide
/-- A-18, A-17. -/
theorem test_shr : alu 0xFF 0 0 0x8126 = some (0x7F, 1) ∧ alu 4 0xFF 1 0x8126 = some (2, 0) := by decide
/-- A-20, A-19. -/
theorem test_subn : alu 5 3 1 0x8127 = some (0xFE, 0) ∧ alu 3 5 0 0x8127 = some (2, 1) := by decide
/-- A-24, A-23. -/
theorem test_shl : alu 0xFF 0 0 0x812E = some (0xFE, 1) ∧ alu 0x40 0xFF 1 0x812E = some (0x80, 0) := by decide
/-- A-36: masked to 0 whatever is drawn; one draw is still taken. -/
theorem test_rnd : exec (.rnd 1 0x00) State.reset = .next (State.reset.countDraw.setReg 1 0) := by simp [exec, execRnd]

/-! ### The index register and memory (section 2.5) -/

/-- M-1. -/
theorem test_ldI : (run State.reset 0xAFFF).map (·.I) = some 0xFFF := by decide
/-- M-2. -/
theorem test_addI : (run ((regs [(1, 1)]).setI 0xFFF) 0xF11E).map (fun t => (t.I, t.reg 15)) = some (0, 0) := by decide
/-- M-6, M-7. -/
theorem test_ldF : (run (regs [(1, 0x10)]) 0xF129).map (·.I) = some 0x0A0 ∧ (run (regs [(1, 0xFF)]) 0xF129).map (·.I) = some 0x54B := by
  decide
/-- M-13. -/
theorem test_ldB : (run ((regs [(1, 123)]).setI 0xFFD) 0xF133).map (fun t => t.readRun 0xFFD 3) = some [1, 2, 3] := by decide
/-- M-14. -/
theorem test_ldB_out : (run ((regs [(1, 123)]).setI 0xFFE) 0xF133).map (fun t => (t.readRun 0xFFE 2, t.fault))
    = some ([0, 0], some ⟨.memoryOutOfBounds, 0x200, some 0xF133, some 0x1000⟩) := by decide
/-- M-15. -/
theorem test_ldMemX : (run ((regs [(0, 1), (1, 2), (2, 3), (3, 4), (4, 5)]).setI 0x300) 0xF355).map (fun t => (t.readRun 0x300 5, t.I))
    = some ([1, 2, 3, 4, 0], 0x300) := by decide
/-- M-18. -/
theorem test_ldMemX_out : (run (State.reset.setI 0xFF1) 0xFF55).map (·.fault)
    = some (some ⟨.memoryOutOfBounds, 0x200, some 0xFF55, some 0x1000⟩) := by decide
/-- M-20. -/
theorem test_ldXMem : (run (State.reset.setI 0x050) 0xF465).map (fun t => (t.V.toList.take 6, t.I))
    = some ([0xF0, 0x90, 0x90, 0x90, 0xF0, 0], 0x050) := by decide
/-- M-21. -/
theorem test_ldXMem_out : (run (State.reset.setI 0xFFF) 0xF165).map (·.fault)
    = some (some ⟨.memoryOutOfBounds, 0x200, some 0xF165, some 0x1000⟩) := by decide

/-! ### The display (section 2.6) -/

/-- D-1. -/
theorem test_cls : (run (State.reset.setDisplay (toggleCell clearDisplay 31 63) false) 0x00E0).map (fun t => (cell t.display 31 63, t.displayDirty))
    = some (false, true) := by decide
/-- D-5: both axes wrap. -/
theorem test_drw_wraps : (run (sprite 0xFF 0xFF [0xC0]) 0xD121).map (fun t => (cell t.display 31 63, cell t.display 31 0, cell t.display 31 1, t.reg 15, t.displayDirty))
    = some (true, true, false, 0, true) := by decide
/-- D-3: a collision. -/
theorem test_drw_collides : (run ((sprite 0 0 [0x01]).setDisplay (toggleCell (toggleCell clearDisplay 0 0) 0 7) false) 0xD121).map
    (fun t => (cell t.display 0 0, cell t.display 0 7, t.reg 15)) = some (true, false, 1) := by decide

/-! ### Keys and timers (section 2.7) -/

/-- K-1, K-5. -/
theorem test_skp : (run ((regs [(1, 5)]).setKey 5 true) 0xE19E).map (·.PC) = some 0x204 ∧
    (run (regs [(1, 0x10)]) 0xE19E).map (·.fault) = some (some ⟨.keyIndexOutOfRange, 0x200, some 0xE19E, some 0x10⟩) := by decide
/-- K-3, K-6. -/
theorem test_sknp : (run (regs [(1, 5)]) 0xE1A1).map (·.PC) = some 0x204 ∧
    (run (regs [(1, 0xFF)]) 0xE1A1).map (·.fault) = some (some ⟨.keyIndexOutOfRange, 0x200, some 0xE1A1, some 0xFF⟩) := by decide
/-- T-1. -/
theorem test_ldXDt : (run (State.reset.setDT 0x10) 0xF307).map (fun t => (t.reg 3, t.DT)) = some (0x10, 0x0F) := by decide
/-- T-3, T-5. -/
theorem test_ldDtX : (run (regs [(0, 5)]) 0xF015).map (·.DT) = some 4 ∧ (run State.reset 0xF015).map (·.DT) = some 0 := by decide
/-- T-6. -/
theorem test_ldStX : (run (regs [(0, 3)]) 0xF018).map (·.ST) = some 2 := by decide
/-- K-7. -/
theorem test_ldXK : (run State.reset 0xF30A).map (fun t => (t.awaitingKey, t.PC, t.reg 3)) = some (some 3, 0x202, 0) := by decide

/-! ### The step (section 2.8) and the host's operations (sections 2.9, 2.10) -/

/-- E-1. -/
theorem test_step_last_fetch : (run (State.reset.setPC 0xFFE) 0x1200).map (·.PC) = some 0x200 := by decide
/-- E-4. -/
theorem test_step_fetch_out : (nextOf (step (State.reset.setPC 0x10FE))).map (·.fault)
    = some (some ⟨.memoryOutOfBounds, 0x10FE, none, some 0x10FE⟩) := by decide
/-- E-5. -/
theorem test_step_illegal : (run (State.reset.setDT 5) 0xFFFF).map (fun t => (t.fault, t.PC, t.DT))
    = some (some ⟨.illegalOpcode, 0x200, some 0xFFFF, none⟩, 0x200, 5) := by decide
/-- L1-1's load. -/
theorem test_load_program : (okOf (State.reset.loadProgram [0x60, 0x05, 0x70, 0x03])).map (fun t => (t.memory, t.PC))
    = some ([(0x200, 0x60), (0x201, 0x05), (0x202, 0x70), (0x203, 0x03)], 0x200) := by decide
/-- K-10. -/
theorem test_key_down : (okOf ((State.reset.setAwaiting (some 3)).keyDown 0xC)).map (fun t => (t.keys.get 0xC, t.reg 3, t.awaitingKey))
    = some (true, 0x0C, none) := by decide
/-- K-11, H-6. -/
theorem test_key_up : (okOf ((State.reset.setAwaiting (some 3)).keyUp 0xC)).map (fun t => (t.keys.get 0xC, t.awaitingKey))
    = some (false, some 3) ∧ errorOf (State.reset.keyUp 0x10) = some .badKeyIndex := by decide
/-- Z-1's checksum. -/
theorem test_save_checksum : State.reset.saveState.drop 4415 = [0x34, 0xF6] := by decide +kernel
/-- Z-8. -/
theorem test_load_state_short : errorOf (State.reset.loadState (State.reset.saveState.take 4416)) = some .stateCorrupt := by
  simp [State.loadState, blobAccepted, saveState_length, errorOf]

/-! ### Witnesses: concrete states and operands that meet the hypotheses of the statement named in each -/

/-- A state that fetches, by numbers. -/
theorem fetches_of {s : State} {i : Instr} (h1 : s.fault = none) (h2 : s.waits = false) (h3 : s.PC.toNat ≤ 0xFFE)
    (h4 : decode (opcodeOfBytes (s.readByte s.PC.toNat) (s.readByte (s.PC.toNat + 1))) = .ok i) : s.FetchesInstr i :=
  ⟨⟨h1, h2, h3⟩, h4⟩

/-- DecodeOfEncode: both well-formed neighbours of the refused terms, and the largest operands. -/
theorem witness_wf : (Instr.sys 0x0DF).wf = true ∧ (Instr.sys 0x0EF).wf = true ∧ (Instr.drw 15 15 15).wf = true := by decide

/-- EncodeOfDecode. -/
theorem witness_decode : decode 0x0000 = .ok (.sys 0x000) ∧ decode 0xFF65 = .ok (.ldXMem 15) := ⟨rfl, rfl⟩

/-- ReservedWordsRaiseIllegalOpcode: a fetched illegal word, and words on both sides of each clause of the list. -/
theorem witness_illegal_fetch : (State.reset.withFetchWord 16 0xFFFF).Fetches ∧
    (0xFFFF : Word) = opcodeOfBytes ((State.reset.withFetchWord 16 0xFFFF).readByte 0x200) ((State.reset.withFetchWord 16 0xFFFF).readByte 0x201) ∧
    decode 0xFFFF = .error (.illegal 0xFFFF) := ⟨⟨rfl, rfl, by decide⟩, by decide, rfl⟩
theorem witness_illegal_words : decode 0x5001 = .error (.illegal 0x5001) ∧ decode 0x900F = .error (.illegal 0x900F) ∧
    decode 0x8008 = .error (.illegal 0x8008) ∧ decode 0x800D = .error (.illegal 0x800D) ∧ decode 0x800F = .error (.illegal 0x800F) ∧
    decode 0xE09D = .error (.illegal 0xE09D) ∧ decode 0xE0A2 = .error (.illegal 0xE0A2) ∧ decode 0xF000 = .error (.illegal 0xF000) ∧
    decode 0xF066 = .error (.illegal 0xF066) := ⟨rfl, rfl, rfl, rfl, rfl, rfl, rfl, rfl, rfl⟩

/-- StepRunsTheDecodedInstruction, TickFollowsEveryInstruction: a fetch at the last address, of an instruction that runs. -/
theorem witness_fetch_runs : ((State.reset.setPC 0xFFE).withFetchWord 16 0x1200).FetchesInstr (.jp 0x200) ∧
    (run (State.reset.setPC 0xFFE) 0x1200).map (·.fault) = some none := ⟨fetches_of rfl rfl (by decide) rfl, by decide⟩

/-- The same with an instruction that faults; also FaultingStepChangesOnlyTheLatch. -/
theorem witness_fetch_faults : (State.reset.withFetchWord 16 0x00EE).FetchesInstr .ret ∧
    (run State.reset 0x00EE).map (·.fault) = some (some ⟨.stackUnderflow, 0x200, some 0x00EE, none⟩) :=
  ⟨fetches_of rfl rfl (by decide) rfl, by decide⟩

/-- TickFollowsEveryInstruction's arms: the two instructions that set a timer. -/
theorem witness_fetch_timers : ((regs [(0, 1)]).withFetchWord 16 0xF015).FetchesInstr (.ldDtX 0) ∧
    ((regs [(0, 0xFF)]).withFetchWord 16 0xF018).FetchesInstr (.ldStX 0) :=
  ⟨fetches_of rfl rfl (by decide) rfl, fetches_of rfl rfl (by decide) rfl⟩

/-- A state with a fault latched. -/
def faulted : State := State.reset.latch .illegalOpcode (some 0xFFFF) none

/-- LatchedFaultStaysUntilResetOrLoad: the latch, a program that loads, an operation that leaves the latch. -/
theorem witness_latched : faulted.fault = some ⟨.illegalOpcode, 0x200, some 0xFFFF, none⟩ ∧
    (∃ t, (HostOp.loadProgram []).perform faulted = .ok t) ∧ (∃ t, (HostOp.keyDown 15).perform faulted = .ok t) :=
  ⟨rfl, ⟨_, rfl⟩, ⟨_, rfl⟩⟩

/-- LatchedFaultStaysUntilResetOrLoad, SaveLoadRoundTrip: a blob that loads (Z-16). -/
theorem witness_load_state : blobAccepted State.reset.saveState = true := by decide +kernel
theorem witness_load_state_ok : ∃ t, (HostOp.loadState State.reset.saveState).perform faulted = .ok t :=
  ⟨_, load_state_ok faulted witness_load_state⟩

/-- WaitingStepOnlyTicks, WaitLastsUntilAKeyComes: a waiting state for each value of WAIT_TICKS_TIMERS. -/
theorem witness_waiting : ∀ b : Bool, ((withMode .corrected b).setAwaiting (some 3)).fault = none ∧
    ((withMode .corrected b).setAwaiting (some 3)).awaitingKey = some 3 ∧
    ((withMode .corrected b).setAwaiting (some 3)).config.keyWaitMode = .corrected ∧
    ((withMode .corrected b).setAwaiting (some 3)).config.waitTicksTimers = b := fun _ => ⟨rfl, rfl, rfl, rfl⟩

/-- ReferenceModeIgnoresAwaitingKey: a step in reference mode with awaiting_key set (K-13). -/
theorem witness_reference : ((withMode .reference true).setAwaiting (some 3)).config.keyWaitMode = .reference ∧
    (run ((withMode .reference true).setAwaiting (some 3)) 0x6101).map (fun t => (t.reg 1, t.awaitingKey)) = some (1, some 3) := by decide

/-- FetchOutOfBoundsFaults: the lowest such PC and the largest (E-2). -/
theorem witness_fetch_out : (State.reset.setPC 0xFFF).fault = none ∧ (State.reset.setPC 0xFFF).waits = false ∧
    0xFFE < (State.reset.setPC 0xFFF).PC.toNat ∧ 0xFFE < (State.reset.setPC 0xFFFF).PC.toNat := by decide

/-- RetPopsOrUnderflows: both clauses. -/
theorem witness_ret : State.reset.PC = 0x1FE + 2 ∧ State.reset.stack = [] ∧ (deep 1).stack = [] ++ [0x202] := by decide

/-- SysDoesNothing: the words around the two exceptions, and the last. -/
theorem witness_sys : [0x0000, 0x00DF, 0x00E1, 0x00ED, 0x00EF, 0x0FFF].all
    (fun w : Word => w.toNat < 0x1000 ∧ w ≠ 0x00E0 ∧ w ≠ 0x00EE) = true := by decide

/-- CallPushesOrOverflows: both clauses where they meet. -/
theorem witness_call : (deep 16).PC = 0x1FE + 2 ∧ (deep 16).stack.length = 16 ∧ (deep 15).stack.length < 16 := by decide

/-- AddSetsCarry, SubtractionsSetNoBorrow, ShiftsMoveTheBitOutToVF: a destination that is not VF, a third register, and
operands on both sides of the carry and of the borrow. -/
theorem witness_alu : (1 : RegIx) ≠ 15 ∧ (2 : RegIx) ≠ 1 ∧ (2 : RegIx) ≠ 15 ∧
    ((regs [(1, 0xFF)]).reg 1).toNat + ((regs [(1, 0xFF)]).reg 0).toNat = 255 ∧
    255 < ((regs [(1, 0xFF), (0, 1)]).reg 1).toNat + ((regs [(1, 0xFF), (0, 1)]).reg 0).toNat ∧
    ((regs [(1, 7), (0, 7)]).reg 0).toNat ≤ ((regs [(1, 7), (0, 7)]).reg 1).toNat := by decide

/-- LdBStoresDecimalDigits: the last address in range and the first out of it (M-13, M-14). -/
theorem witness_ldB : (State.reset.setI 0xFFD).PC = 0x1FE + 2 ∧ (State.reset.setI 0xFFD).memory.wf State.reset.config.font ∧
    (State.reset.setI 0xFFD).I.toNat + 2 ≤ 0xFFF ∧ 0xFFF < (State.reset.setI 0xFFE).I.toNat + 2 := by decide

/-- LdMemStoresRegisters, LdFromMemLoadsRegisters: the same for one register and for sixteen (M-17, M-18). -/
theorem witness_ldMem : (State.reset.setI 0xFFF).I.toNat + (0 : RegIx).val ≤ 0xFFF ∧ 0xFFF < (State.reset.setI 0xFFF).I.toNat + (1 : RegIx).val ∧
    (State.reset.setI 0xFF0).I.toNat + (15 : RegIx).val ≤ 0xFFF ∧ 0xFFF < (State.reset.setI 0xFF1).I.toNat + (15 : RegIx).val ∧
    (State.reset.setI 0xFF0).memory.wf State.reset.config.font ∧ (15 : RegIx) ≤ 15 ∧ (14 : RegIx) < 15 := by decide

/-- DrwTogglesTheSprite: no rows, one row at the last address, two rows past it (D-7, D-8, D-9). -/
theorem witness_drw_range : ((0 : Fin 16).val = 0 ∨ (State.reset.setI 0xFFF).I.toNat + (0 : Fin 16).val - 1 ≤ 0xFFF) ∧
    (State.reset.setI 0xFFF).I.toNat + (1 : Fin 16).val - 1 ≤ 0xFFF ∧ 0 < (2 : Fin 16).val ∧
    0xFFF < (State.reset.setI 0xFFF).I.toNat + (2 : Fin 16).val - 1 := by decide

/-- DrwTogglesTheSprite, DrawingTwiceRestoresTheDisplay: a cell the sprite sets and one it does not, the former off and on. -/
theorem witness_sprite_sets : SpriteSets (sprite 63 31 [0x80]) 63 31 1 31 63 ∧ ¬ SpriteSets (sprite 63 31 [0x80]) 63 31 1 0 0 ∧
    cell (sprite 63 31 [0x80]).display 31 63 = false ∧
    cell ((sprite 63 31 [0x80]).setDisplay (toggleCell clearDisplay 31 63) false).display 31 63 = true := by
  refine ⟨⟨0, 0, by decide⟩, ?_, by decide, by decide⟩
  rintro ⟨row, col, hr, -, -, h, -⟩
  obtain rfl : row = 0 := by omega
  exact absurd h (by decide)

/-- DrwTogglesTheSprite: the premise that every cell the sprite sets is off, and DrawingTwiceRestoresTheDisplay's cleared
screen and corner. -/
theorem witness_draw_twice : (∀ r c, cell (sprite 63 31 [0xFF]).display r c = false) ∧ (1 : RegIx) ≠ 15 ∧ (2 : RegIx) ≠ 15 ∧
    (sprite 63 31 [0xFF]).I.toNat + (1 : Fin 16).val - 1 ≤ 0xFFF ∧
    (sprite 63 31 [0xFF]).reg 1 = 63 ∧ (sprite 63 31 [0xFF]).reg 2 = 31 :=
  ⟨cell_clearDisplay, by decide, by decide, by decide, by decide, by decide⟩

/-- KeySkipsReadTheLatch: the largest key index and the first value above it. -/
theorem witness_keys : ((regs [(1, 0x0F)]).reg 1).toNat = (15 : Fin 16).val ∧ 0x0F < ((regs [(1, 0x10)]).reg 1).toNat ∧
    (regs [(1, 0x10)]).PC = 0x1FE + 2 := by decide

/-- LdVxDTReadsBeforeTheTick, LdVxKSetsAwaitingKey. -/
theorem witness_timer_key : (State.reset.withFetchWord 16 0xF307).FetchesInstr (.ldXDt 3) ∧
    ∀ m, ((withMode m true).withFetchWord 16 0xF30A).FetchesInstr (.ldXK 3) :=
  ⟨fetches_of rfl rfl (by decide) rfl, fun m => by cases m <;> exact fetches_of rfl rfl (by decide) rfl⟩

/-- EachFieldHasItsWriters, OnlyLdBAndLdMemWriteMemory, OtherRegistersStay, SoundTimerAndDirtyFlagAreInvisible: an instruction
that none of the exceptions names, completing. -/
theorem witness_exec : exec (.addReg 1 2) State.reset = .next (State.reset.setResultFlag 1 0 false) ∧
    writesReg (.addReg 1 2) 3 = false ∧ writesReg (.ldXMem 2) 3 = false ∧ writesReg (.drw 1 2 3) 14 = false := ⟨rfl, rfl, rfl, rfl⟩

/-- StoreIsSeenByTheNextFetch. -/
theorem witness_store_seen : ((State.reset.setI 0x202).withFetchWord 16 0xF155).memory.wf State.reset.config.font ∧
    ((State.reset.setI 0x202).withFetchWord 16 0xF155).FetchesInstr (.ldMemX 1) ∧ 1 ≤ (1 : RegIx).val ∧
    ((State.reset.setI 0x202).withFetchWord 16 0xF155).I = 0x200 + 2 ∧ (0x202 : Word).toNat + (1 : RegIx).val ≤ 0xFFF :=
  ⟨by decide, fetches_of rfl rfl (by decide) rfl, by decide, rfl, by decide⟩

/-- SelfJumpLoopsForEver (F-1). -/
theorem witness_self_jump : (State.reset.withFetchWord 16 0x1200).FetchesInstr (.jp 0x200) ∧
    (0x200 : BitVec 12).toNat = (State.reset.withFetchWord 16 0x1200).PC.toNat := ⟨fetches_of rfl rfl (by decide) rfl, by decide⟩

/-- PlacedWordIsFetched: at the last address. -/
theorem witness_place : (State.reset.setPC 0xFFE).memory.wf State.reset.config.font ∧ (State.reset.setPC 0xFFE).PC.toNat ≤ 0xFFE := by decide

/-- ResetSetsEveryField: the first and the last byte of the font and their neighbours. -/
theorem witness_font : State.reset.resetOp.readByte 0x04F = 0 ∧ State.reset.resetOp.readByte 0x050 = 0xF0 ∧
    State.reset.resetOp.readByte 0x09F = 0x80 ∧ State.reset.resetOp.readByte 0x0A0 = 0 := by decide

/-- LoadProgramChecksThenCopies: the largest program and the smallest refused one (H-1, H-2). -/
theorem witness_rom : (List.replicate 3584 (0 : Byte)).length ≤ 3584 ∧ 3584 < (List.replicate 3585 (0 : Byte)).length := by
  rw [List.length_replicate, List.length_replicate]; decide

/-- KeyEventsSetLatchesAndDeliver: the largest key, the first refused one, and both values of awaiting_key. -/
theorem witness_key_events : 0xF < 16 ∧ 15 < 16 ∧ State.reset.awaitingKey = none ∧ (State.reset.setAwaiting (some 15)).awaitingKey = some 15 := by
  decide

/-- DisplayReadAndDirtyFlag: a frame of two steps that runs both, and one that its first step ends with a fault (R239). -/
theorem witness_frame : (runSteps 2 State.reset).PC = 0x204 ∧ (runSteps 2 State.reset).fault = none ∧
    (runSteps 2 (State.reset.withFetchWord 16 0x00EE)).fault = some ⟨.stackUnderflow, 0x200, some 0x00EE, none⟩ := by decide

/-- SavedBlobHasTheLayout: a full stack, an empty one, and both values of awaiting_key. -/
theorem witness_save : (deep 16).stack.length ≤ 16 ∧ State.reset.stack.length ≤ 16 ∧ State.reset.awaitingKey = none ∧
    (State.reset.setAwaiting (some 15)).awaitingKey = some 15 := by decide

/-- StepKeepsInvariant, HostOperationsKeepInvariant, SaveLoadRoundTrip: a state of the invariant that steps, ... -/
theorem witness_inv : (State.reset.withFetchWord 16 0x2300).Inv ∧ (∃ t, step (State.reset.withFetchWord 16 0x2300) = .next t) ∧
    ∃ t, (HostOp.keyDown 3).perform (State.reset.withFetchWord 16 0x2300) = .ok t :=
  ⟨⟨by decide, by decide, by decide, fun _ h => by cases h⟩, step_next rfl, ⟨_, rfl⟩⟩

/-- ... and one with a fault latched. -/
theorem witness_inv_faulted : faulted.Inv :=
  ⟨by decide, by decide, by decide, fun _ h => by cases h; exact ⟨rfl, ⟨0xFFFF, rfl, rfl⟩, rfl⟩⟩

/-- IndexBelow4096InReachableStates: a constructed machine after a step. -/
theorem witness_reachable : ∃ t, step State.reset = .next t ∧ Reachable t := by
  obtain ⟨t, ht⟩ := step_next (s := State.reset) rfl
  exact ⟨t, ht, .step (.construct Config.default) ht⟩

/-- StepKeepsPCBound: the largest PC and return address. -/
theorem witness_pc_bound : ((State.reset.setPC 0x10FE).setStack [0x1000]).PCBounded ∧
    ∃ t, step ((State.reset.setPC 0x10FE).setStack [0x1000]) = .next t :=
  ⟨⟨by decide, fun v hv => by simp at hv; subst hv; decide⟩, step_next rfl⟩

/-- StepKeepsKeysAndParameters. -/
theorem witness_step : ∃ t, step State.reset = .next t := step_next rfl

end Sys2Proof.Tests
end

section
/-! PROOFS of the state's family (10_state.md): what an instruction can do, said once in relational form, and what follows for
each field, for the invariant and for the bound on PC. -/

namespace Sys2Proof.Machine

/-! ### What an instruction can do -/

/-- When the instruction `i`, run in `s`, raises, with the kind and the `addr` of its record (R270). -/
inductive Raises (s : State) : Instr → FaultKind → Option Nat → Prop
  | ret : s.stack = [] → Raises s .ret .stackUnderflow none
  | call {nnn : BitVec 12} : stackLimit ≤ s.stack.length → Raises s (.call nnn) .stackOverflow none
  | drw {x y : RegIx} {n : Fin 16} : s.indexInRange n.val = false →
      Raises s (.drw x y n) .memoryOutOfBounds (some s.indexFaultAddr)
  | ldB {x : RegIx} : s.indexInRange 3 = false → Raises s (.ldB x) .memoryOutOfBounds (some s.indexFaultAddr)
  | ldMemX {x : RegIx} : s.indexInRange (x.val + 1) = false →
      Raises s (.ldMemX x) .memoryOutOfBounds (some s.indexFaultAddr)
  | ldXMem {x : RegIx} : s.indexInRange (x.val + 1) = false →
      Raises s (.ldXMem x) .memoryOutOfBounds (some s.indexFaultAddr)
  | skp {x : RegIx} : 0xF < (s.reg x).toNat → Raises s (.skp x) .keyIndexOutOfRange (some (s.reg x).toNat)
  | sknp {x : RegIx} : 0xF < (s.reg x).toNat → Raises s (.sknp x) .keyIndexOutOfRange (some (s.reg x).toNat)

/-- What the instruction `i` can make of `s` when it does not raise: one constructor per set of fields written, with what the
invariants need to know of the new values. -/
inductive Change (s : State) (i : Instr) : State → Prop
  /-- jumps, skips and SYS -/
  | pc (p : Word) (hp : p = s.PC ∨ p = s.PC + 2 ∨ p.toNat ≤ 0x10FE) : Change s i (s.setPC p)
  | ret {vs : List Word} {v : Word} (hi : i = .ret) (hs : s.stack = vs ++ [v]) : Change s i ((s.setStack vs).setPC v)
  | call {nnn : BitVec 12} (hi : i = .call nnn) (hs : s.stack.length < stackLimit) :
      Change s i ((s.push s.PC).setPC (zextNNN nnn))
  /-- register loads and arithmetic -/
  | regs (V : Vector Byte 16) (hV : ∀ j, writesReg i j = false → V.get j = s.V.get j) : Change s i { s with V := V }
  | rnd {x : RegIx} {nn : Byte} (hi : i = .rnd x nn) (v : Byte) : Change s i (s.countDraw.setReg x v)
  | index (hi : (∃ nnn, i = .ldI nnn) ∨ (∃ x, i = .addI x) ∨ ∃ x, i = .ldF x) {v : Word} (hv : v.toNat < 0x1000) :
      Change s i (s.setI v)
  | store (hi : (∃ x, i = .ldB x) ∨ ∃ x, i = .ldMemX x) {a : Nat} {vs : List Byte} (hvs : a + vs.length ≤ memSize) :
      Change s i (s.writeRun a vs)
  | cls (hi : i = .cls) : Change s i (s.setDisplay clearDisplay true)
  | drw {x y : RegIx} {n : Fin 16} (hi : i = .drw x y n) (cx cy : Byte) (sprite : List Byte) :
      Change s i (s.blit cx cy sprite)
  | delay {x : RegIx} (hi : i = .ldDtX x) : Change s i (s.setDT (s.reg x))
  | sound {x : RegIx} (hi : i = .ldStX x) : Change s i (s.setST (s.reg x))
  | await {x : RegIx} (hi : i = .ldXK x) : Change s i (s.setAwaiting (some x))

/-- The result of an instruction: a raise under its conditions, or a next state with a `Change`. -/
def Effect (s : State) (i : Instr) (r : Result) : Prop :=
  (∃ k addr, Raises s i k addr ∧ r = raise k i addr s) ∨ ∃ t, r = .next t ∧ Change s i t

section
variable {s : State} {i : Instr}

/-- Writing a register the instruction may write is a `Change`. -/
theorem Change.setReg {x : RegIx} (v : Byte) (hx : writesReg i x = true) : Change s i (s.setReg x v) := by
  refine .regs (s.setReg x v).V fun j hj => State.setReg_reg_ne s v ?_
  rintro rfl
  simp [hx] at hj

/-- So is writing a result and its flag (R141). -/
theorem Change.setResultFlag {x : RegIx} (v : Byte) (b : Bool) (hx : writesReg i x = true) (hf : writesReg i VF = true) :
    Change s i (s.setResultFlag x v b) := by
  refine .regs (s.setResultFlag x v b).V fun j hj => ?_
  have hjx : j ≠ x := by rintro rfl; simp [hx] at hj
  have hjf : j ≠ VF := by rintro rfl; simp [hf] at hj
  have h := setResultFlag_reg s x j v b
  rwa [if_neg hjf, if_neg hjx] at h

/-- So is LD Vx, [I] (R177). -/
theorem Change.loadRegsUpTo (x : RegIx) : Change s (.ldXMem x) (s.loadRegsUpTo x) := by
  refine .regs (s.loadRegsUpTo x).V fun j hj => ?_
  have hjx : ¬ j ≤ x := by simpa [writesReg] using hj
  exact (loadRegsUpTo_reg s x j).trans (if_neg hjx)

theorem Effect.next {t : State} (h : Change s i t) : Effect s i (.next t) := .inr ⟨t, rfl, h⟩

theorem Effect.skipIf (c : Bool) : Effect s i (skipIf c s) := by
  rw [skipIf_eq]
  cases c
  · exact .next (.pc _ (.inl rfl))
  · exact .next (.pc _ (.inr (.inl rfl)))

theorem Effect.withIndexed {k : Nat} {f : State → Result}
    (hr : s.indexInRange k = false → Raises s i .memoryOutOfBounds (some s.indexFaultAddr))
    (hf : s.indexInRange k = true → Effect s i (f s)) : Effect s i (withIndexed k i f s) := by
  rcases withIndexed_cases k i f s with ⟨hk, h⟩ | ⟨hk, h⟩
  · exact h ▸ hf hk
  · exact .inl ⟨_, _, hr hk, h⟩

theorem Effect.withKeyIndex {x : RegIx} {f : Fin 16 → State → Result}
    (hr : 0xF < (s.reg x).toNat → Raises s i .keyIndexOutOfRange (some (s.reg x).toNat))
    (hf : ∀ k, Effect s i (f k s)) : Effect s i (withKeyIndex x i f s) := by
  rcases withKeyIndex_cases x i f s with ⟨k, -, h⟩ | ⟨hx, h⟩
  · exact h ▸ hf k
  · exact .inl ⟨_, _, hr hx, h⟩

theorem Effect.ret : Effect s .ret (execRet s) := by
  unfold execRet
  split
  · next h => exact .inl ⟨_, _, .ret (List.getLast?_eq_none_iff.mp h), rfl⟩
  · next v h => exact .next (.ret rfl (List.dropLast_append_getLast? v h).symm)

theorem Effect.call (nnn : BitVec 12) : Effect s (.call nnn) (execCall nnn s) := by
  unfold execCall
  split
  · next h => exact .inl ⟨_, _, .call h, rfl⟩
  · next h => exact .next (.call rfl (by omega))

/-- A run of bytes at I that is in range stays inside memory (R55). -/
theorem Change.storeAtIndex {vs : List Byte} (hi : (∃ x, i = .ldB x) ∨ ∃ x, i = .ldMemX x)
    (h : s.indexInRange vs.length = true) (h0 : vs.length ≠ 0) : Change s i (s.writeRun s.indexAddr vs) :=
  .store hi (((indexInRange_iff s _).mp h).resolve_left h0)

end

theorem zextNNN_toNat (nnn : BitVec 12) : (zextNNN nnn).toNat = nnn.toNat := by
  have := nnn.isLt
  simp only [zextNNN, BitVec.toNat_ofNat]
  omega

/-- Everything an instruction can do. -/
theorem exec_effect (i : Instr) (s : State) : Effect s i (exec i s) := by
  cases i
  case ret => exact .ret
  case call nnn => exact .call nnn
  case sys nnn => exact .next (.pc s.PC (.inl rfl))
  case jp nnn =>
    exact .next (.pc _ (.inr (.inr (by have := nnn.isLt; rw [zextNNN_toNat]; omega))))
  case jpV0 nnn =>
    refine .next (.pc _ (.inr (.inr ?_)))
    have := nnn.isLt
    have := (s.reg 0).isLt
    simp only [BitVec.toNat_ofNat]
    omega
  case seImm | sneImm | seReg | sneReg => exact .skipIf _
  case skp =>
    simp only [exec, execSkp]
    exact .withKeyIndex .skp fun _ => .skipIf _
  case sknp =>
    simp only [exec, execSknp]
    exact .withKeyIndex .sknp fun _ => .skipIf _
  case ldImm | addImm | ldReg | orReg | andReg | xorReg | ldXDt => exact .next (.setReg _ (by simp [writesReg]))
  case addReg | sub | shr | subn | shl => exact .next (.setResultFlag _ _ (by simp [writesReg]) (by simp [writesReg, VF]))
  case rnd => exact .next (.rnd rfl _)
  case ldXMem x =>
    simp only [exec, execLdXMem]
    exact .withIndexed .ldXMem fun _ => .next (.loadRegsUpTo x)
  case ldI nnn => exact .next (.index (.inl ⟨_, rfl⟩) (by have := nnn.isLt; rw [zextNNN_toNat]; omega))
  case addI x =>
    refine .next (.index (.inr (.inl ⟨_, rfl⟩)) ?_)
    simp only [BitVec.toNat_ofNat]
    omega
  case ldF x =>
    refine .next (.index (.inr (.inr ⟨_, rfl⟩)) ?_)
    have := (s.reg x).isLt
    exact Nat.lt_of_le_of_lt (Nat.mod_le _ _) (by simp only [fontBase]; omega)
  case ldB x =>
    simp only [exec, execLdB]
    exact .withIndexed .ldB fun h => .next (.storeAtIndex (.inl ⟨_, rfl⟩) h nofun)
  case ldMemX x =>
    simp only [exec, execLdMemX]
    refine .withIndexed .ldMemX fun h => .next (.storeAtIndex (.inr ⟨_, rfl⟩) ?_ ?_) <;> simp [regsUpTo_length, h]
  case cls => exact .next (.cls rfl)
  case drw =>
    simp only [exec, execDrw]
    exact .withIndexed .drw fun _ => .next (.drw rfl _ _ _)
  case ldDtX => exact .next (.delay rfl)
  case ldStX => exact .next (.sound rfl)
  case ldXK => exact .next (.await rfl)

/-- The states an instruction can end in. -/
theorem exec_next_cases {i : Instr} {s t : State} (h : exec i s = .next t) :
    (∃ k addr, Raises s i k addr ∧ t = s.undoAdvance.latch k (some (encode i)) addr) ∨ Change s i t := by
  rcases exec_effect i s with ⟨k, addr, hr, he⟩ | ⟨u, he, hu⟩
  · exact .inl ⟨k, addr, hr, Host.Outcome.next.inj (h.symm.trans he)⟩
  · exact .inr (Host.Outcome.next.inj (he.symm.trans h) ▸ hu)

/-! ### The phases around an instruction -/

/-- The tick writes the two timers at most (R95). -/
theorem afterExec_eq (t : State) : ∃ d v, t.afterExec = (t.setDT d).setST v := by
  unfold State.afterExec
  split
  · exact ⟨t.DT, t.ST, rfl⟩
  · exact ⟨_, _, rfl⟩

/-- So does a waiting step (R91). -/
theorem waitStep_eq (s : State) : ∃ d v, s.waitStep = (s.setDT d).setST v := by
  unfold State.waitStep
  split
  · exact ⟨_, _, rfl⟩
  · exact ⟨s.DT, s.ST, rfl⟩

/-- A raise of a step's instruction is a latch in the state of the step's start (R97). -/
theorem latch_undoAdvance_advance (s : State) (k : FaultKind) (w : Option Word) (addr : Option Nat) :
    s.advance.undoAdvance.latch k w addr = s.latch k w addr := by
  rw [undoAdvance_advance]

/-- A word that decodes to nothing is rejected as that illegal word (R74). -/
theorem decode_error {w : Word} {e : DecodeReject} (h : decode w = .error e) : e = .illegal w := by
  unfold decode at h
  repeat' split at h
  all_goals cases h
  all_goals rfl

/-- Everything a step that gives a next state can be: its timers aside, a wait, one of the step faults in the state of the
step's start, or an instruction's `Change` after the fetch's advance (R90 to R98). -/
theorem step_next_cases {s t : State} (h : step s = .next t) : s.fault = none ∧ ∃ u d v, t = (u.setDT d).setST v ∧
    (u = s ∨
     (0xFFE < s.PC.toNat ∧ u = s.latch .memoryOutOfBounds none (some (max s.PC.toNat 0x1000))) ∨
     (∃ w, decode w = .error (.illegal w) ∧ u = s.latch .illegalOpcode (some w) none) ∨
     (∃ i k addr, Raises s.advance i k addr ∧ u = s.latch k (some (encode i)) addr) ∨
     (∃ i, s.PC.toNat ≤ 0xFFE ∧ Change s.advance i u)) := by
  obtain ⟨hf, hw⟩ := step_cases h
  refine ⟨hf, ?_⟩
  rcases hw with ⟨-, rfl⟩ | ⟨-, hpc, rfl⟩ | ⟨-, ⟨e, he⟩, rfl⟩ | ⟨i, u, hi, hu, rfl⟩
  · obtain ⟨d, v, h⟩ := waitStep_eq s
    exact ⟨s, d, v, h, .inl rfl⟩
  · exact ⟨_, s.DT, s.ST, rfl, .inr (.inl ⟨hpc, rfl⟩)⟩
  · obtain rfl := decode_error he
    exact ⟨_, s.DT, s.ST, rfl, .inr (.inr (.inl ⟨_, he, rfl⟩))⟩
  · obtain ⟨d, v, h⟩ := afterExec_eq u
    refine ⟨u, d, v, h, .inr (.inr (.inr ?_))⟩
    rcases exec_next_cases hu with ⟨k, addr, hr, rfl⟩ | hc
    · exact .inl ⟨i, k, addr, hr, latch_undoAdvance_advance s k _ addr⟩
    · exact .inr ⟨i, hi.in_range, hc⟩

/-! ### The invariant -/

/-- The record of a raise is one that R270 allows. -/
theorem Raises.allowed {s : State} {i : Instr} {k : FaultKind} {addr : Option Nat} (h : Raises s i k addr)
    (hI : s.I.toNat < 0x1000) (pc : Word) : FaultRecord.allowed ⟨k, pc, some (encode i), addr⟩ := by
  have ha : some s.indexFaultAddr = some 0x1000 := congrArg some (Nat.max_eq_right (by omega))
  cases h with
  | ret => exact ⟨rfl, rfl⟩
  | call => exact ⟨⟨_, rfl⟩, rfl⟩
  | drw => exact .inr ⟨.inl ⟨_, _, _, rfl⟩, ha⟩
  | ldB => exact .inr ⟨.inr (.inl ⟨_, rfl⟩), ha⟩
  | ldMemX => exact .inr ⟨.inr (.inr (.inl ⟨_, rfl⟩)), ha⟩
  | ldXMem => exact .inr ⟨.inr (.inr (.inr ⟨_, rfl⟩)), ha⟩
  | skp hk => exact ⟨.inl ⟨_, rfl⟩, _, hk, rfl⟩
  | sknp hk => exact ⟨.inr ⟨_, rfl⟩, _, hk, rfl⟩

namespace State.Inv
variable {s : State}

/-- Latching an allowed record keeps the invariant. -/
theorem latch (h : s.Inv) {k : FaultKind} {w : Option Word} {addr : Option Nat}
    (hr : FaultRecord.allowed ⟨k, s.PC, w, addr⟩) : (s.latch k w addr).Inv where
  memory_wf := h.memory_wf
  index_bound := h.index_bound
  stack_bound := h.stack_bound
  fault_here := fun r e => by obtain rfl := Option.some.inj e; exact ⟨rfl, hr⟩

/-- The timers are no part of the invariant. -/
theorem setTimers (h : s.Inv) (d v : Byte) : ((s.setDT d).setST v).Inv :=
  ⟨h.memory_wf, h.index_bound, h.stack_bound, h.fault_here⟩

/-- With no fault latched, PC is no part of it either. -/
theorem advance (h : s.Inv) (hf : s.fault = none) : s.advance.Inv :=
  ⟨h.memory_wf, h.index_bound, h.stack_bound, by simp [hf]⟩

/-- An instruction that does not raise keeps the invariant. -/
theorem change {t : State} {i : Instr} (h : s.Inv) (hf : s.fault = none) (hc : Change s i t) : t.Inv := by
  obtain ⟨hm, hI, hst, hr⟩ := h
  cases hc with
  | ret _ hs => exact ⟨hm, hI, by simp [hs] at hst ⊢; omega, by simp [hf]⟩
  | call _ hs => exact ⟨hm, hI, by simp; omega, by simp [hf]⟩
  | index _ hv => exact ⟨hm, hv, hst, hr⟩
  | store _ hvs => exact ⟨Memory.writeRun_wf hm hvs, hI, hst, hr⟩
  | pc => exact ⟨hm, hI, hst, by simp [hf]⟩
  | regs | rnd | cls | drw | delay | sound | await => exact ⟨hm, hI, hst, hr⟩

/-- A constructed machine satisfies the invariant (R41, R291). -/
theorem construct (c : Config) : (State.construct c).Inv where
  memory_wf := ⟨.nil, nofun⟩
  index_bound := (by decide : (0 : Word).toNat < 0x1000)
  stack_bound := Nat.zero_le _
  fault_here := nofun

theorem resetOp (s : State) : s.resetOp.Inv :=
  have h := construct s.config
  ⟨h.memory_wf, h.index_bound, h.stack_bound, h.fault_here⟩

theorem step {t : State} (h : s.Inv) (ht : step s = .next t) : t.Inv := by
  obtain ⟨hf, u, d, v, rfl, hu⟩ := step_next_cases ht
  refine setTimers ?_ d v
  rcases hu with rfl | ⟨hpc, rfl⟩ | ⟨w, hw, rfl⟩ | ⟨i, k, addr, hr, rfl⟩ | ⟨i, -, hc⟩
  · exact h
  · exact h.latch (.inl ⟨rfl, hpc, rfl⟩)
  · exact h.latch ⟨⟨w, rfl, hw⟩, rfl⟩
  · exact h.latch (hr.allowed h.index_bound s.PC)
  · exact (h.advance hf).change hf hc

end State.Inv

/-- Settles O55: each outcome of a step, by `step_next_cases`, keeps the invariant. -/
theorem stepKeepsInvariant : Obligations.StepKeepsInvariant :=
  fun _ _ h ht => h.step ht

/-! ### The invariant and the host's operations -/

/-- What `load_state` has checked of the restored I and stack depth (R256). -/
theorem blobAccepted_bounds {b : List Byte} (h : blobAccepted b = true) :
    (blobWord b 4117).toNat ≤ 0x0FFF ∧ blobDepth b ≤ 16 := by
  simp only [blobAccepted, Bool.and_eq_true, decide_eq_true_eq] at h
  obtain ⟨⟨⟨⟨-, hI⟩, hd⟩, -⟩, -⟩ := h
  exact ⟨hI, hd⟩

namespace State.Inv
variable {s t : State}

theorem loadProgram {rom : List Byte} (h : s.loadProgram rom = .ok t) : t.Inv := by
  unfold State.loadProgram at h
  split at h
  · cases h
  · next hl =>
    cases h
    obtain ⟨hm, hI, hst, hr⟩ := resetOp s
    exact ⟨Memory.writeRun_wf hm (by simp only [progBase, memSize, maxRom] at *; omega), hI, hst, hr⟩

/-- Key delivery writes a register and ends the wait (R234). -/
theorem deliverKey (h : s.Inv) (k : Fin 16) : (s.deliverKey k).Inv := by
  unfold State.deliverKey
  split
  · exact ⟨h.memory_wf, h.index_bound, h.stack_bound, h.fault_here⟩
  · exact h

theorem setKey (h : s.Inv) (k : Fin 16) (b : Bool) : (s.setKey k b).Inv :=
  ⟨h.memory_wf, h.index_bound, h.stack_bound, h.fault_here⟩

theorem keyDown {k : Nat} (h : s.Inv) (ht : s.keyDown k = .ok t) : t.Inv := by
  unfold State.keyDown at ht
  split at ht
  · cases ht; exact (h.setKey _ _).deliverKey _
  · cases ht

theorem keyUp {k : Nat} (h : s.Inv) (ht : s.keyUp k = .ok t) : t.Inv := by
  unfold State.keyUp at ht
  split at ht
  · cases ht; exact h.setKey _ _
  · cases ht

theorem loadState {b : List Byte} (h : s.loadState b = .ok t) : t.Inv := by
  unfold State.loadState at h
  split at h
  · next hb =>
    cases h
    obtain ⟨hI, hd⟩ := blobAccepted_bounds hb
    exact {
      memory_wf := Memory.ofBytes_wf (by simp)
      index_bound := Nat.lt_succ_of_le hI
      stack_bound := by simpa [State.restore] using hd
      fault_here := nofun }
  · cases h

theorem perform {o : HostOp} (h : s.Inv) (ht : o.perform s = .ok t) : t.Inv := by
  cases o with
  | reset => cases ht; exact resetOp s
  | loadProgram rom => exact loadProgram ht
  | keyDown k => exact h.keyDown ht
  | keyUp k => exact h.keyUp ht
  | readDisplay | saveState => cases ht; exact h
  | clearDirty => cases ht; exact ⟨h.memory_wf, h.index_bound, h.stack_bound, h.fault_here⟩
  | loadState b => exact loadState ht

end State.Inv

/-- Settles O56, operation by operation. -/
theorem hostOperationsKeepInvariant : Obligations.HostOperationsKeepInvariant :=
  fun _ _ _ h ht => h.perform ht

/-- The invariant holds in every reachable state. -/
theorem Reachable.inv {s : State} (h : Reachable s) : s.Inv := by
  induction h with
  | construct c => exact .construct c
  | step _ ht ih => exact ih.step ht
  | op o _ ht ih => exact ih.perform ht

/-- Settles O58, from the invariant. -/
theorem indexBelow4096InReachableStates : Obligations.IndexBelow4096InReachableStates :=
  fun _ h => ⟨h.inv.index_bound, h.inv.stack_bound⟩

/-! ### The bound on PC -/

namespace State.PCBounded
variable {s : State}

/-- An instruction keeps the bound from the PC that an in-range fetch leaves (R26, R92). -/
theorem change {t : State} {i : Instr} (hpc : s.PC.toNat ≤ 0x1000) (hst : ∀ v ∈ s.stack, v.toNat ≤ 0x1000)
    (hc : Change s i t) : t.PCBounded := by
  have hs : s.PC.toNat ≤ 0x10FE := by omega
  cases hc with
  | pc p hp =>
    refine ⟨?_, hst⟩
    rcases hp with rfl | rfl | hp
    · exact hs
    · simp only [State.setPC_PC]; bv_omega
    · exact hp
  | @ret vs v _ hvs =>
    have hv := hst v (by simp [hvs])
    exact ⟨by simp only [State.setPC_PC]; omega, fun u hu => hst u (by simp [hvs, show u ∈ vs from hu])⟩
  | @call nnn =>
    have := nnn.isLt
    refine ⟨by rw [State.setPC_PC, zextNNN_toNat]; omega, fun u hu => ?_⟩
    rcases List.mem_append.mp (show u ∈ s.stack ++ [s.PC] from hu) with hu | hu
    · exact hst u hu
    · exact List.mem_singleton.mp hu ▸ hpc
  | regs | rnd | index | store | cls | drw | delay | sound | await => exact ⟨hs, hst⟩

theorem step {t : State} (h : s.PCBounded) (ht : step s = .next t) : t.PCBounded := by
  obtain ⟨-, u, d, v, rfl, hu⟩ := step_next_cases ht
  suffices hb : u.PCBounded from ⟨hb.pc_bound, hb.return_bound⟩
  rcases hu with rfl | ⟨-, rfl⟩ | ⟨w, -, rfl⟩ | ⟨i, k, addr, -, rfl⟩ | ⟨i, hpc, hc⟩
  · exact h
  · exact ⟨h.pc_bound, h.return_bound⟩
  · exact ⟨h.pc_bound, h.return_bound⟩
  · exact ⟨h.pc_bound, h.return_bound⟩
  · exact change (s := s.advance) (by simp only [State.advance_PC]; bv_omega) h.return_bound hc

theorem construct (c : Config) : (State.construct c).PCBounded := ⟨(by decide : (0x200 : Word).toNat ≤ 0x10FE), nofun⟩

end State.PCBounded

/-- Settles O59: an instruction is fetched at 0xFFE or below only, so a skip or a CALL stays far below the bound. -/
theorem stepKeepsPCBound : Obligations.StepKeepsPCBound :=
  fun _ _ h ht => h.step ht

/-- Settles O57: nothing of the two bounds depends on the parameters. -/
theorem invariantsHoldAtReset : Obligations.InvariantsHoldAtReset :=
  ⟨rfl, fun c => ⟨.construct c, .construct c⟩⟩

/-! ### What leaves a field alone -/

/-- Settles O39, one `Change` at a time; a raise writes PC and the latch alone. -/
theorem eachFieldHasItsWriters : Obligations.EachFieldHasItsWriters := by
  intro i s t h
  rcases exec_next_cases h with ⟨k, addr, -, rfl⟩ | hc
  · simp
  · cases hc with
    | ret hi => simp [hi]
    | call hi => simp [hi]
    | rnd hi => simp [hi]
    | index hi => rcases hi with ⟨_, rfl⟩ | ⟨_, rfl⟩ | ⟨_, rfl⟩ <;> simp
    | cls hi => simp [hi]
    | drw hi => simp [hi, blit_eq]
    | delay hi => simp [hi]
    | sound hi => simp [hi]
    | await hi => simp [hi]
    | pc | regs | store => simp

/-- A `Change` leaves every register the instruction does not write. -/
theorem Change.reg_eq {s t : State} {i : Instr} {j : RegIx} (hc : Change s i t) (hj : writesReg i j = false) :
    t.reg j = s.reg j := by
  cases hc with
  | regs V hV => exact hV j hj
  | rnd hi v => subst hi; exact State.setReg_reg_ne _ v (by simpa [writesReg] using hj)
  | drw hi cx cy sprite => subst hi; exact State.setReg_reg_ne _ _ (by simpa [writesReg, VF] using hj)
  | pc | ret | call | index | store | cls | delay | sound | await => rfl

/-- Settles O41: a raise writes no register, a `Change` only those of `writesReg`. -/
theorem otherRegistersStay : Obligations.OtherRegistersStay := by
  intro i s t j h hj
  rcases exec_next_cases h with ⟨k, addr, -, rfl⟩ | hc
  · rfl
  · exact hc.reg_eq hj

/-- Settles O42: no outcome of a step writes either field. -/
theorem stepKeepsKeysAndParameters : Obligations.StepKeepsKeysAndParameters := by
  intro s t h
  obtain ⟨-, u, d, v, rfl, hu⟩ := step_next_cases h
  suffices hk : u.keys = s.keys ∧ u.config = s.config from hk
  rcases hu with rfl | ⟨-, rfl⟩ | ⟨w, -, rfl⟩ | ⟨i, k, addr, -, rfl⟩ | ⟨i, -, hc⟩
  · exact ⟨rfl, rfl⟩
  · exact ⟨rfl, rfl⟩
  · exact ⟨rfl, rfl⟩
  · exact ⟨rfl, rfl⟩
  · cases hc <;> exact ⟨rfl, rfl⟩

/-! ### ST and display_dirty are read by no instruction -/

/-- The state with other values of ST and display_dirty. -/
def State.veil (s : State) (v : Byte) (b : Bool) : State := { s with ST := v, displayDirty := b }

theorem State.veil_stack (s : State) (v : Byte) (b : Bool) : (s.veil v b).stack = s.stack := rfl
theorem State.veil_reg (s : State) (v : Byte) (b : Bool) (x : RegIx) : (s.veil v b).reg x = s.reg x := rfl

/-- A meaning that does the same to every other field whatever ST and display_dirty hold. -/
def Blind (f : State → Result) : Prop :=
  ∀ (s t : State) (v : Byte) (b : Bool), f s = .next t → ∃ v' b', f (s.veil v b) = .next (t.veil v' b')

namespace Blind

/-- A meaning with one outcome. -/
theorem next {g : State → State} (h : ∀ s v b, ∃ v' b', g (s.veil v b) = (g s).veil v' b') :
    Blind fun s => .next (g s) := by
  intro s t v b ht
  cases ht
  obtain ⟨v', b', e⟩ := h s v b
  exact ⟨v', b', congrArg _ e⟩

theorem raise (k : FaultKind) (i : Instr) {addr : State → Option Nat} (h : ∀ s v b, addr (s.veil v b) = addr s) :
    Blind fun s => raise k i (addr s) s :=
  .next fun s v b => ⟨v, b, by rw [h]; rfl⟩

/-- A branch on something other than ST and display_dirty. -/
theorem ite {c : State → Prop} [DecidablePred c] {f g : State → Result} (h : ∀ s v b, c (s.veil v b) ↔ c s)
    (hf : Blind f) (hg : Blind g) : Blind fun s => if c s then f s else g s := by
  intro s t v b ht
  by_cases hc : c s
  · simp only [h, if_pos hc] at ht ⊢
    exact hf s t v b ht
  · simp only [h, if_neg hc] at ht ⊢
    exact hg s t v b ht

theorem skipIf {c : State → Bool} (h : ∀ s v b, c (s.veil v b) = c s) : Blind fun s => skipIf (c s) s :=
  .next fun s v b => ⟨v, b, by rw [h]; cases c s <;> rfl⟩

theorem withIndexed {k : Nat} {i : Instr} {f : State → Result} (hf : Blind f) : Blind (withIndexed k i f) :=
  .ite (fun _ _ _ => .rfl) hf (.raise _ _ fun _ _ _ => rfl)

theorem withKeyIndex {x : RegIx} {i : Instr} {f : Fin 16 → State → Result} (hf : ∀ k, Blind (f k)) :
    Blind (withKeyIndex x i f) := by
  intro s t v b ht
  unfold Machine.withKeyIndex at ht ⊢
  by_cases hx : (s.reg x).toNat < 16
  · rw [dif_pos hx] at ht
    rw [dif_pos (by rwa [State.veil_reg])]
    exact hf _ s t v b ht
  · rw [dif_neg hx] at ht
    rw [dif_neg (by rwa [State.veil_reg])]
    exact raise _ i (addr := fun s => some (s.reg x).toNat) (fun _ _ _ => rfl) s t v b ht

theorem ret : Blind execRet := by
  intro s t v b ht
  unfold execRet at ht ⊢
  rw [State.veil_stack]
  split at ht <;> cases ht <;> exact ⟨v, b, rfl⟩

/-- No instruction reads ST or display_dirty. -/
theorem exec (i : Instr) : Blind (exec i) := by
  cases i
  case ret => exact ret
  case call nnn =>
    exact ite (c := fun s => s.stack.length ≥ stackLimit) (fun _ _ _ => .rfl) (.raise _ _ fun _ _ _ => rfl)
      (.next fun s v b => ⟨v, b, rfl⟩)
  case seImm | sneImm | seReg | sneReg => exact skipIf fun _ _ _ => rfl
  case skp => exact withKeyIndex fun k => skipIf (c := fun s => s.keys.get k) fun _ _ _ => rfl
  case sknp => exact withKeyIndex fun k => skipIf (c := fun s => !s.keys.get k) fun _ _ _ => rfl
  case drw => exact withIndexed (.next fun s v b => ⟨v, true, rfl⟩)
  case ldB | ldMemX | ldXMem => exact withIndexed (.next fun s v b => ⟨v, b, rfl⟩)
  case cls => exact .next fun s v b => ⟨v, true, rfl⟩
  case ldStX x => exact .next fun s v b => ⟨s.reg x, b, rfl⟩
  all_goals exact .next fun s v b => ⟨v, b, rfl⟩

end Blind

/-- Settles O43, from `Blind.exec`. -/
theorem soundTimerAndDirtyFlagAreInvisible : Obligations.SoundTimerAndDirtyFlagAreInvisible := by
  intro i s t v b h
  obtain ⟨v', b', hu⟩ := Blind.exec i s t v b h
  exact ⟨_, hu, rfl⟩

/-! ### Reset -/

theorem resetByte_font (font : Font) {a : Nat} (ha : 0x050 ≤ a) (h : a - 0x050 < 80) :
    resetByte font a = font.get ⟨a - 0x050, h⟩ :=
  dif_pos ⟨ha, h⟩

theorem resetByte_outside_font (font : Font) {a : Nat} (h : a < 0x050 ∨ 0x0A0 ≤ a) : resetByte font a = 0 :=
  dif_neg (by simp only [fontBase, fontSize]; omega)

/-- Settles O48; nothing is listed in memory after reset, so every byte reads its reset content. -/
theorem resetSetsEveryField : Obligations.ResetSetsEveryField := by
  intro s
  refine ⟨rfl, fun a ha h => resetByte_font _ ha h, fun a ha => resetByte_outside_font _ (by omega),
    fun x => Vector.get_replicate 16 0 x, rfl, rfl, rfl, rfl, rfl, cell_clearDisplay, rfl,
    fun k => Vector.get_replicate 16 false k, rfl, rfl, rfl, rfl⟩

end Sys2Proof.Machine
end

section
/-! PROOFS of memory's family (20_memory.md): which instructions leave memory alone, and the word the host places at PC. -/

namespace Sys2Proof.Machine

/-! ### Instructions that write no memory -/

/-- A `Change` of any instruction but the two stores leaves every byte (R51, R57). -/
theorem Change.sameMemory {s t : State} {i : Instr} (hc : Change s i t) (hB : ∀ x, i ≠ .ldB x)
    (hM : ∀ x, i ≠ .ldMemX x) : SameMemory s t := by
  intro a
  cases hc with
  | store hi =>
    rcases hi with ⟨x, rfl⟩ | ⟨x, rfl⟩
    · exact absurd rfl (hB x)
    · exact absurd rfl (hM x)
  | pc | ret | call | regs | rnd | index | cls | drw | delay | sound | await => rfl

/-- Settles O40: a raise writes PC and the latch alone, a `Change` leaves memory unless it is a store. -/
theorem onlyLdBAndLdMemWriteMemory : Obligations.OnlyLdBAndLdMemWriteMemory := by
  intro i s t hB hM h
  rcases exec_next_cases h with ⟨k, addr, -, rfl⟩ | hc
  · exact fun _ => rfl
  · exact hc.sameMemory hB hM

/-! ### A word placed at PC -/

/-- A row of 16 bits gives the word of its number (R70). -/
theorem tableOpcode_sixteen (w : Nat) : tableOpcode 16 w = BitVec.ofNat 16 w := by
  apply BitVec.eq_of_toNat_eq
  simp [tableOpcode]

section
variable {s : State} (hm : s.memory.Pairwise fun c d => c.1 < d.1) (w : Word)
include hm

/-- A placed word is the opcode at PC, which placing it leaves alone (R52). -/
theorem fetchWord_placeWord : (s.placeWord w).fetchWord = w := by
  have hi : (s.placeWord w).readByte s.PC.toNat = w.extractLsb' 8 8 := by
    simp [State.placeWord, bytesOfOpcode, readByte_writeRun s _ _ _ hm]
  have lo : (s.placeWord w).readByte (s.PC.toNat + 1) = w.extractLsb' 0 8 := by
    simp [State.placeWord, bytesOfOpcode, readByte_writeRun s _ _ _ hm]
  have hpc : (s.placeWord w).PC = s.PC := rfl
  rw [State.fetchWord, hpc, hi, lo, opcodeOfBytes_bytesOfOpcode]

/-- Only the two bytes of the word change. -/
theorem placeWord_storesOnly : StoresOnly s (s.placeWord w) s.PC.toNat 2 :=
  fun b hb => readByte_writeRun_outside s _ b (bytesOfOpcode w) hm hb

end

/-- Settles O47, from the two rules of `placeWord`; its premise PC <= 0xFFE is not needed, since the model's read is total. -/
theorem placedWordIsFetched : Obligations.PlacedWordIsFetched := by
  intro s w ⟨hm, _⟩ _
  rw [State.withFetchWord, tableOpcode_sixteen]
  exact ⟨fetchWord_placeWord hm _, placeWord_storesOnly hm _⟩

end Sys2Proof.Machine
end

section
/-! PROOFS of the encoding's family (30_encoding.md): the fields of a word of each form of R71, and the word its fields make again;
with them decode and encode undo each other, and decode agrees with the opcode table. -/

namespace Sys2Proof

/-! ### The fields of a word of each form (R71, R72) -/

section
variable {op : Nat} (hop : op < 16)
include hop

@[simp] theorem fieldOp_wordNNN (nnn : BitVec 12) : fieldOp (wordNNN op nnn) = op := by
  have := nnn.isLt
  rw [fieldOp_eq, wordNNN_toNat op nnn hop]
  omega

@[simp] theorem fieldNNN_wordNNN (nnn : BitVec 12) : fieldNNN (wordNNN op nnn) = nnn := by
  have := nnn.isLt
  apply BitVec.eq_of_toNat_eq
  rw [fieldNNN_toNat, wordNNN_toNat op nnn hop]
  omega

@[simp] theorem fieldOp_wordXNN (x : RegIx) (nn : Byte) : fieldOp (wordXNN op x nn) = op := by
  have := nn.isLt
  rw [fieldOp_eq, wordXNN_toNat op x nn hop]
  omega

@[simp] theorem fieldX_wordXNN (x : RegIx) (nn : Byte) : fieldX (wordXNN op x nn) = x := by
  have := nn.isLt
  apply Fin.ext
  rw [fieldX_val, wordXNN_toNat op x nn hop]
  omega

@[simp] theorem fieldNN_wordXNN (x : RegIx) (nn : Byte) : fieldNN (wordXNN op x nn) = nn := by
  have := nn.isLt
  apply BitVec.eq_of_toNat_eq
  rw [fieldNN_toNat, wordXNN_toNat op x nn hop]
  omega

section
variable {n : Nat} (hn : n < 16) (x y : RegIx)
include hn

@[simp] theorem fieldOp_wordXYN : fieldOp (wordXYN op x y n) = op := by
  rw [fieldOp_eq, wordXYN_toNat op x y n hop hn]
  omega

@[simp] theorem fieldX_wordXYN : fieldX (wordXYN op x y n) = x := by
  apply Fin.ext
  rw [fieldX_val, wordXYN_toNat op x y n hop hn]
  omega

@[simp] theorem fieldY_wordXYN : fieldY (wordXYN op x y n) = y := by
  apply Fin.ext
  rw [fieldY_val, wordXYN_toNat op x y n hop hn]
  omega

@[simp] theorem field_nibble_wordXYN : field (wordXYN op x y n) 3 0 = n := by
  rw [field_low_nibble, wordXYN_toNat op x y n hop hn]
  omega

end

@[simp] theorem fieldN_wordXYN (x y : RegIx) (n : Fin 16) : fieldN (wordXYN op x y n.val) = n :=
  Fin.ext (field_nibble_wordXYN hop n.isLt x y)

section
variable {nn : Nat} (hnn : nn < 256) (x : RegIx)
include hnn

@[simp] theorem fieldOp_wordX : fieldOp (wordX op x nn) = op := by
  rw [fieldOp_eq, wordX_toNat op x nn hop hnn]
  omega

@[simp] theorem fieldX_wordX : fieldX (wordX op x nn) = x := by
  apply Fin.ext
  rw [fieldX_val, wordX_toNat op x nn hop hnn]
  omega

@[simp] theorem field_byte_wordX : field (wordX op x nn) 7 0 = nn := by
  rw [field_low_byte, wordX_toNat op x nn hop hnn]
  omega

end

end

/-! ### Decoding an encoded instruction -/

/-- The word of SYS is CLS's or RET's only for the two operands R76 takes out. -/
theorem decode_encode_sys {nnn : BitVec 12} (h : (Instr.sys nnn).wf = true) : decode (encode (.sys nnn)) = .ok (.sys nnn) := by
  obtain ⟨h0, h1⟩ : nnn ≠ 0x0E0 ∧ nnn ≠ 0x0EE := by simpa [Instr.wf] using h
  have hop : fieldOp (wordNNN 0 nnn) = 0 := fieldOp_wordNNN (by decide) nnn
  have hf : fieldNNN (wordNNN 0 nnn) = nnn := fieldNNN_wordNNN (by decide) nnn
  have e0 : wordNNN 0 nnn ≠ 0x00E0 := fun e => h0 (by rw [← hf, e]; rfl)
  have e1 : wordNNN 0 nnn ≠ 0x00EE := fun e => h1 (by rw [← hf, e]; rfl)
  simp only [encode, decode, hop, hf, if_neg e0, if_neg e1]

/-- Settles O1, form by form of R71 (`nnn`, `xnn`, `xy` and `xyn`, `x`): decode reads back the fields the word is made of. -/
theorem decodeOfEncode : Obligations.DecodeOfEncode := by
  intro i hi
  cases i
  case cls | ret => rfl
  case sys => exact decode_encode_sys hi
  case jp | call | ldI | jpV0 => simp [encode, decode]
  case seImm | sneImm | ldImm | addImm | rnd => simp [encode, decode]
  case seReg | sneReg | ldReg | orReg | andReg | xorReg | addReg | sub | shr | subn | shl | drw => simp [encode, decode]
  case skp | sknp | ldXDt | ldDtX | ldStX | ldXK | addI | ldF | ldB | ldMemX | ldXMem => simp [encode, decode]

/-! ### Encoding what was decoded -/

section
variable {w : Word} {op : Nat} (hop : fieldOp w = op)
include hop

theorem wordNNN_of_fields : wordNNN op (fieldNNN w) = w := by
  have := w.isLt
  have := fieldOp_eq w
  apply BitVec.eq_of_toNat_eq
  rw [wordNNN_toNat _ _ (by omega), fieldNNN_toNat]
  omega

theorem wordXNN_of_fields : wordXNN op (fieldX w) (fieldNN w) = w := by
  have := w.isLt
  have := fieldOp_eq w
  apply BitVec.eq_of_toNat_eq
  rw [wordXNN_toNat _ _ _ (by omega), fieldX_val, fieldNN_toNat]
  omega

theorem wordXYN_of_fields {n : Nat} (hn : field w 3 0 = n) : wordXYN op (fieldX w) (fieldY w) n = w := by
  have := w.isLt
  have := fieldOp_eq w
  have := field_low_nibble w
  apply BitVec.eq_of_toNat_eq
  rw [wordXYN_toNat _ _ _ _ (by omega) (by omega), fieldX_val, fieldY_val]
  omega

theorem wordX_of_fields {nn : Nat} (hnn : field w 7 0 = nn) : wordX op (fieldX w) nn = w := by
  have := w.isLt
  have := fieldOp_eq w
  have := field_low_byte w
  apply BitVec.eq_of_toNat_eq
  rw [wordX_toNat _ _ _ (by omega) (by omega), fieldX_val]
  omega

end

theorem sys_wf_of_ne {w : Word} (hop : fieldOp w = 0) (h0 : w ≠ 0x00E0) (h1 : w ≠ 0x00EE) :
    (Instr.sys (fieldNNN w)).wf = true := by
  have hw := wordNNN_of_fields hop
  have e0 : fieldNNN w ≠ 0x0E0 := fun e => h0 (by rw [← hw, e]; rfl)
  have e1 : fieldNNN w ≠ 0x0EE := fun e => h1 (by rw [← hw, e]; rfl)
  simpa [Instr.wf] using ⟨e0, e1⟩

/-- Settles O2, along decode's own case tree (its arm of op `k` is the split's case `k + 1`): the fields decode has read make the
word again. -/
theorem encodeOfDecode : Obligations.EncodeOfDecode := by
  intro w i h
  unfold decode at h
  split at h
  case h_1 hop =>
    split at h
    case isTrue h0 => cases h; exact ⟨rfl, h0.symm⟩
    case isFalse h0 =>
      split at h
      case isTrue h1 => cases h; exact ⟨rfl, h1.symm⟩
      case isFalse h1 => cases h; exact ⟨sys_wf_of_ne hop h0 h1, wordNNN_of_fields hop⟩
  case h_2 hop | h_3 hop | h_11 hop | h_12 hop => cases h; exact ⟨rfl, wordNNN_of_fields hop⟩
  case h_4 hop | h_5 hop | h_7 hop | h_8 hop | h_13 hop => cases h; exact ⟨rfl, wordXNN_of_fields hop⟩
  case h_6 hop | h_9 hop | h_10 hop =>
    split at h <;> cases h <;> exact ⟨rfl, wordXYN_of_fields hop ‹_›⟩
  case h_14 hop => cases h; exact ⟨rfl, wordXYN_of_fields hop rfl⟩
  case h_15 hop | h_16 hop =>
    split at h <;> cases h <;> exact ⟨rfl, wordX_of_fields hop ‹_›⟩
  case h_17 => cases h

/-! ### decode and the opcode table -/

/-- The mnemonic of the instruction a word decodes to, none for an illegal word. -/
def decodedMnemonic (w : Word) : Option String := (decode w).toOption.map Instr.mnemonic

/-- Two words agree in every field by which decode chooses its arm (R74). -/
structure SameArm (w v : Word) : Prop where
  op : fieldOp w = fieldOp v
  nibble : fieldOp v = 0x5 ∨ fieldOp v = 0x8 ∨ fieldOp v = 0x9 → field w 3 0 = field v 3 0
  byte : fieldOp v = 0xE ∨ fieldOp v = 0xF → field w 7 0 = field v 7 0
  cls : w = 0x00E0 ↔ v = 0x00E0
  ret : w = 0x00EE ↔ v = 0x00EE

theorem SameArm.decodedMnemonic_eq {w v : Word} (h : SameArm w v) : decodedMnemonic w = decodedMnemonic v := by
  obtain ⟨hop, hnibble, hbyte, hcls, hret⟩ := h
  unfold decodedMnemonic decode
  rw [hop]
  split
  case h_1 => simp only [hcls, hret]; split <;> [rfl; split <;> rfl]
  case h_6 e | h_9 e | h_10 e => simp only [hnibble (by omega)]; split <;> rfl
  case h_15 e | h_16 e => simp only [hbyte (by omega)]; split <;> rfl
  all_goals rfl

/-- Whether a row's mask keeps every bit of a field. -/
def OpcodeRow.keeps (r : OpcodeRow) (hi lo : Nat) : Prop := r.mask.extractLsb' lo (hi - lo + 1) = BitVec.allOnes _

/-- Where a row's mask keeps a field, a word of the row has the row's value of it. -/
theorem OpcodeRow.keeps.field_eq {r : OpcodeRow} {w : Word} {hi lo : Nat} (hk : r.keeps hi lo) (h : r.fits w = true) :
    field w hi lo = field r.bits hi lo := by
  have hf : ∀ v : Word, field v hi lo = (v.extractLsb' lo (hi - lo + 1)).toNat := fun v => by
    rw [BitVec.extractLsb'_toNat, Nat.shiftRight_eq_div_pow, field]
  rw [hf, hf, ← eq_of_beq h, BitVec.extractLsb'_and, hk, BitVec.and_allOnes]

/-- Where decode's choice of an arm looks at a field, the masks of the rows of that op keep it; CLS and RET are one word each. -/
theorem opcodeTable_keeps : ∀ r ∈ opcodeTable, r.keeps 15 12 ∧
    (fieldOp r.bits = 0x5 ∨ fieldOp r.bits = 0x8 ∨ fieldOp r.bits = 0x9 → r.keeps 3 0) ∧
    (fieldOp r.bits = 0xE ∨ fieldOp r.bits = 0xF → r.keeps 7 0) ∧
    (r.bits = 0x00E0 ∨ r.bits = 0x00EE → r.mask = BitVec.allOnes 16) := by
  unfold OpcodeRow.keeps
  decide

/-- A row's fixed bits, as a word, decode to the row's instruction. -/
theorem decodedMnemonic_bits : ∀ r ∈ opcodeTable, decodedMnemonic r.bits = some r.mnemonic := by decide

/-- Every word of a row takes the arm of the row's fixed bits; of the words of SYS, those of CLS and RET are not the row's (R76). -/
theorem sameArm_of_fits {r : OpcodeRow} {w : Word} (hr : r ∈ opcodeTable) (h : r.fits w = true) (h0 : w ≠ 0x00E0)
    (h1 : w ≠ 0x00EE) : SameArm w r.bits := by
  obtain ⟨hop, hnibble, hbyte, hword⟩ := opcodeTable_keeps r hr
  have hw : r.bits = 0x00E0 ∨ r.bits = 0x00EE → w = r.bits := fun e => by
    rw [← eq_of_beq h, hword e, BitVec.and_allOnes]
  exact {
    op := hop.field_eq h
    nibble := fun e => (hnibble e).field_eq h
    byte := fun e => (hbyte e).field_eq h
    cls := iff_of_false h0 fun e => h0 ((hw (.inl e)).trans e)
    ret := iff_of_false h1 fun e => h1 ((hw (.inr e)).trans e) }

/-- Every instruction's word is of its own row, from the laws of the single instructions. -/
theorem fits_its_row : ∀ i : Instr, Laws.FitsItsRow.Statement i
  | .cls => Laws.FitsItsRow.cls
  | .ret => Laws.FitsItsRow.ret
  | .sys _ => Laws.FitsItsRow.sys _
  | .jp _ => Laws.FitsItsRow.jp _
  | .call _ => Laws.FitsItsRow.call _
  | .seImm _ _ => Laws.FitsItsRow.seImm _ _
  | .sneImm _ _ => Laws.FitsItsRow.sneImm _ _
  | .seReg _ _ => Laws.FitsItsRow.seReg _ _
  | .sneReg _ _ => Laws.FitsItsRow.sneReg _ _
  | .ldImm _ _ => Laws.FitsItsRow.ldImm _ _
  | .addImm _ _ => Laws.FitsItsRow.addImm _ _
  | .ldReg _ _ => Laws.FitsItsRow.ldReg _ _
  | .orReg _ _ => Laws.FitsItsRow.orReg _ _
  | .andReg _ _ => Laws.FitsItsRow.andReg _ _
  | .xorReg _ _ => Laws.FitsItsRow.xorReg _ _
  | .addReg _ _ => Laws.FitsItsRow.addReg _ _
  | .sub _ _ => Laws.FitsItsRow.sub _ _
  | .shr _ _ => Laws.FitsItsRow.shr _ _
  | .subn _ _ => Laws.FitsItsRow.subn _ _
  | .shl _ _ => Laws.FitsItsRow.shl _ _
  | .ldI _ => Laws.FitsItsRow.ldI _
  | .jpV0 _ => Laws.FitsItsRow.jpV0 _
  | .rnd _ _ => Laws.FitsItsRow.rnd _ _
  | .drw _ _ _ => Laws.FitsItsRow.drw _ _ _
  | .skp _ => Laws.FitsItsRow.skp _
  | .sknp _ => Laws.FitsItsRow.sknp _
  | .ldXDt _ => Laws.FitsItsRow.ldXDt _
  | .ldDtX _ => Laws.FitsItsRow.ldDtX _
  | .ldStX _ => Laws.FitsItsRow.ldStX _
  | .ldXK _ => Laws.FitsItsRow.ldXK _
  | .addI _ => Laws.FitsItsRow.addI _
  | .ldF _ => Laws.FitsItsRow.ldF _
  | .ldB _ => Laws.FitsItsRow.ldB _
  | .ldMemX _ => Laws.FitsItsRow.ldMemX _
  | .ldXMem _ => Laws.FitsItsRow.ldXMem _

/-- A word of no row is illegal: what decodes encodes back to its word, which is of a row. -/
theorem decodedMnemonic_of_no_row {w : Word} (h : ∀ r ∈ opcodeTable, r.fits w = false) : decodedMnemonic w = none := by
  unfold decodedMnemonic
  cases hd : decode w with
  | error => rfl
  | ok i =>
    obtain ⟨r, hr, -, hf⟩ := fits_its_row i
    rw [(encodeOfDecode w i hd).2, h r hr] at hf
    cases hf

/-- Settles O3: a word of a row takes the arm of the row's fixed bits, a word of no row decodes to nothing. -/
theorem decodeFollowsOpcodeTable : Obligations.DecodeFollowsOpcodeTable := by
  intro w
  suffices h : decodedMnemonic w = tableMnemonic w by
    rw [← h, decodedMnemonic]
    cases decode w <;> rfl
  by_cases h0 : w = 0x00E0
  · subst h0; rfl
  by_cases h1 : w = 0x00EE
  · subst h1; rfl
  unfold tableMnemonic
  cases hrow : opcodeTable.find? (·.fits w) with
  | none => exact decodedMnemonic_of_no_row (by simpa using hrow)
  | some r =>
    have hr := List.mem_of_find?_eq_some hrow
    have hf : r.fits w = true := List.find?_some (p := fun r : OpcodeRow => r.fits w) hrow
    rw [(sameArm_of_fits hr hf h0 h1).decodedMnemonic_eq, decodedMnemonic_bits r hr]
    rfl

/-! ### Words written out -/

/-- Settles O5: each word's fields, read off. -/
theorem sampleWordsDecode : Obligations.SampleWordsDecode :=
  ⟨rfl, rfl, rfl, rfl, rfl, rfl, rfl, rfl⟩

end Sys2Proof
end

section
/-! PROOFS of the step's family (40_step_cycle.md): a step on a fetched instruction is the instruction, then the tick. -/

namespace Sys2Proof.Machine

/-! ### The tick after an instruction -/

/-- The tick comes unless the instruction faulted (R95, R97). -/
theorem afterExec_eq_ite (t : State) : t.afterExec = if t.fault = none then t.tick else t := by
  unfold State.afterExec
  cases t.fault <;> rfl

/-- The count down stops at 0 (R95). -/
theorem countDown_eq (v : Byte) : countDown v = if v = 0 then 0 else v - 1 := by
  unfold countDown
  split
  · next h => exact h
  · rfl

/-- Settles O6: the advance is the write of PC + 2, and what follows the instruction is the tick or, on a fault, nothing. -/
theorem stepRunsTheDecodedInstruction : Obligations.StepRunsTheDecodedInstruction := by
  intro s i h
  obtain ⟨t, he⟩ := exec_next i s.advance
  refine ⟨t, he, ?_⟩
  rw [step_of_exec h he, afterExec_eq_ite, ← countDown_eq, ← countDown_eq]
  rfl

/-! ### The timers around an instruction -/

section
variable {i : Instr} {s t : State}

/-- An instruction other than Fx15 leaves DT (R28). -/
theorem exec_DT_of_ne (h : exec i s = .next t) (hi : ∀ x, i ≠ .ldDtX x) : t.DT = s.DT :=
  have ⟨_, _, _, hDT, _⟩ := eachFieldHasItsWriters i s t h
  hDT hi

/-- An instruction other than Fx18 leaves ST (R28). -/
theorem exec_ST_of_ne (h : exec i s = .next t) (hi : ∀ x, i ≠ .ldStX x) : t.ST = s.ST :=
  have ⟨_, _, _, _, hST, _⟩ := eachFieldHasItsWriters i s t h
  hST hi

/-- Fx15 loads DT from the register (R214). -/
theorem exec_ldDtX_DT {x : RegIx} (h : exec (.ldDtX x) s = .next t) : t.DT = s.reg x := by
  cases h
  rfl

/-- Fx18 loads ST from the register (R215). -/
theorem exec_ldStX_ST {x : RegIx} (h : exec (.ldStX x) s = .next t) : t.ST = s.reg x := by
  cases h
  rfl

end

/-- Settles O12: with no fault each timer is counted down from what the instruction leaves in it, the register for the one
instruction that loads it and the old value otherwise; a fault leaves the state of the step's start but for the latch. -/
theorem tickFollowsEveryInstruction : Obligations.TickFollowsEveryInstruction := by
  intro s i h
  obtain ⟨t, he⟩ := exec_next i s.advance
  refine ⟨t.afterExec, step_of_exec h he, ?_⟩
  cases hf : t.fault with
  | none =>
    rw [afterExec_eq_ite, if_pos hf]
    refine ⟨fun _ => ⟨?_, ?_⟩, fun hn => absurd hf hn⟩
    · rw [State.tick_DT, countDown_toNat]
      split
      · next x => rw [exec_ldDtX_DT he, State.advance_reg]
      · next hi => rw [exec_DT_of_ne he hi, State.advance_DT]
    · rw [State.tick_ST, countDown_toNat]
      split
      · next x => rw [exec_ldStX_ST he, State.advance_reg]
      · next hi => rw [exec_ST_of_ne he hi, State.advance_ST]
  | some r =>
    obtain rfl : t = s.setFault (some r) := exec_advance_fault h.no_fault he hf
    rw [afterExec_eq_ite, if_neg nofun]
    exact ⟨nofun, fun _ => ⟨rfl, rfl⟩⟩

end Sys2Proof.Machine
end

section
/-! PROOFS of control transfer's family (41_flow.md): what each of RET, SYS, JP, CALL and JP V0 makes of a state, and the loop of a
jump to its own address. -/

namespace Sys2Proof.Machine

/-! ### A raise seen from the instruction's address -/

/-- An instruction at `a` that raises ends in the state of its step's start with the latch set (R14, R97). -/
theorem raise_of_PC {s : State} {a : Word} (hpc : s.PC = a + 2) (k : FaultKind) (i : Instr) (addr : Option Nat) :
    raise k i addr s = .next { s with PC := a, fault := some ⟨k, a, some (encode i), addr⟩ } := by
  rw [raise_eq, hpc, BitVec.add_sub_cancel]

/-! ### The five instructions -/

section
variable {s : State}

theorem exec_ret_of_stack_nil (h : s.stack = []) : exec .ret s = raise .stackUnderflow .ret none s := by
  simp [exec, execRet, h]

theorem exec_ret_of_stack_append {vs : List Word} {v : Word} (h : s.stack = vs ++ [v]) :
    exec .ret s = .next ((s.setStack vs).setPC v) := by
  simp [exec, execRet, h]

theorem exec_call_of_full {nnn : BitVec 12} (h : stackLimit ≤ s.stack.length) :
    exec (.call nnn) s = raise .stackOverflow (.call nnn) none s := if_pos h

theorem exec_call_of_room {nnn : BitVec 12} (h : s.stack.length < stackLimit) :
    exec (.call nnn) s = .next ((s.push s.PC).setPC (zextNNN nnn)) := if_neg (Nat.not_le.mpr h)

theorem exec_jp (nnn : BitVec 12) : exec (.jp nnn) s = .next (s.setPC (zextNNN nnn)) := rfl

theorem exec_jpV0 (nnn : BitVec 12) :
    exec (.jpV0 nnn) s = .next (s.setPC (BitVec.ofNat 16 (nnn.toNat + (s.reg 0).toNat))) := rfl

end

/-- The target of JP V0, a 12-bit and an 8-bit number added, is far below 2^16 (R114). -/
theorem jpV0_target_bound (nnn : BitVec 12) (v : Byte) : nnn.toNat + v.toNat ≤ 0x10FE := by
  have := nnn.isLt
  have := v.isLt
  omega

/-- Settles O13: an empty stack raises; from any other the newest entry, its last, becomes PC. -/
theorem retPopsOrUnderflows : Obligations.RetPopsOrUnderflows := by
  refine ⟨rfl, fun s a hpc => ⟨fun h => ?_, fun vs v h => ?_⟩⟩
  · rw [exec_ret_of_stack_nil h, raise_of_PC hpc]
    rfl
  · exact exec_ret_of_stack_append h

/-- Settles O14: below 0x1000 the op is 0 and `nnn` is the whole word, and SYS of it is well-formed, so it decodes from its word. -/
theorem sysDoesNothing : Obligations.SysDoesNothing := by
  refine ⟨fun w hw h0 h1 => ?_, fun _ _ => rfl⟩
  have hop : fieldOp w = 0 := by rw [fieldOp_eq, Nat.div_eq_of_lt hw]
  have henc : encode (.sys (fieldNNN w)) = w := wordNNN_of_fields hop
  have hdec := decode_encode_sys (sys_wf_of_ne hop h0 h1)
  rw [henc] at hdec
  exact ⟨fieldNNN w, (fieldNNN_toNat w).trans (Nat.mod_eq_of_lt hw), hdec, henc⟩

/-- Settles O15. -/
theorem jpSetsPC : Obligations.JpSetsPC := fun nnn _ =>
  ⟨wordNNN_toNat 1 nnn (by decide), _, exec_jp nnn, zextNNN_toNat nnn, rfl⟩

/-- Settles O16: a full stack raises; with room the advanced PC, `a + 2`, is pushed. -/
theorem callPushesOrOverflows : Obligations.CallPushesOrOverflows := by
  refine fun nnn s a hpc => ⟨wordNNN_toNat 2 nnn (by decide), fun h => ?_, fun h => ?_⟩
  · rw [exec_call_of_full h.ge, raise_of_PC hpc]
  · exact ⟨_, exec_call_of_room h, zextNNN_toNat nnn, by rw [hpc]; rfl⟩

/-- Settles O17: the sum fits its 16 bits by its bound. -/
theorem jpV0AddsV0 : Obligations.JpV0AddsV0 := by
  intro nnn s
  have hb := jpV0_target_bound nnn (s.reg 0)
  have hsum : (BitVec.ofNat 16 (nnn.toNat + (s.reg 0).toNat)).toNat = nnn.toNat + (s.reg 0).toNat :=
    (BitVec.toNat_ofNat _ _).trans (Nat.mod_eq_of_lt (by omega))
  exact ⟨wordNNN_toNat 0xB nnn (by decide), _, exec_jpV0 nnn, hsum, hsum.trans_le hb, rfl⟩

/-! ### Steps that are a tick and nothing else -/

/-- Where a step is the tick alone, and ends where it is so again, `k` steps count each timer down by `k` and change nothing
else (R95). -/
theorem stepsTo_of_ticks {P : State → Prop} (hstep : ∀ s, P s → step s = .next s.tick ∧ P s.tick) (k : Nat) :
    ∀ s, P s → ∃ t, stepsTo k s t ∧ t = { s with DT := t.DT, ST := t.ST } ∧
      t.DT.toNat = s.DT.toNat - k ∧ t.ST.toNat = s.ST.toNat - k := by
  induction k with
  | zero => exact fun s _ => ⟨s, rfl, rfl, rfl, rfl⟩
  | succ k ih =>
    intro s hs
    obtain ⟨hnext, hP⟩ := hstep s hs
    obtain ⟨t, hsteps, hframe, hDT, hST⟩ := ih s.tick hP
    rw [State.tick_DT, countDown_toNat] at hDT
    rw [State.tick_ST, countDown_toNat] at hST
    exact ⟨t, ⟨_, hnext, hsteps⟩, hframe, by omega, by omega⟩

/-- The tick leaves what the next fetch depends on. -/
theorem State.FetchesInstr.tick {s : State} {i : Instr} (h : s.FetchesInstr i) : s.tick.FetchesInstr i :=
  ⟨⟨h.no_fault, h.no_wait, h.in_range⟩, h.decoded⟩

/-- A jump to its own address undoes the fetch's advance, which leaves the step the tick alone (R112, R95). -/
theorem step_self_jump {s : State} {nnn : BitVec 12} (h : s.FetchesInstr (.jp nnn)) (hn : nnn.toNat = s.PC.toNat) :
    step s = .next s.tick := by
  have hpc : zextNNN nnn = s.PC := BitVec.eq_of_toNat_eq ((zextNNN_toNat nnn).trans hn)
  have hexec : exec (.jp nnn) s.advance = .next s := by rw [exec_jp, hpc]; rfl
  rw [step_of_exec h hexec, afterExec_eq_ite, if_pos h.no_fault]

/-- Settles O46, by induction on the number of steps: each is the tick, after which PC holds the same jump. -/
theorem selfJumpLoopsForEver : Obligations.SelfJumpLoopsForEver := fun k s nnn h hn =>
  stepsTo_of_ticks (P := fun s => s.FetchesInstr (.jp nnn) ∧ nnn.toNat = s.PC.toNat)
    (fun _ ⟨hf, hpc⟩ => ⟨step_self_jump hf hpc, hf.tick, hpc⟩) k s ⟨h, hn⟩

end Sys2Proof.Machine
end

section
/-! PROOFS of the skips' family (42_skip.md): SE and SNE on an immediate and on two registers. -/

namespace Sys2Proof.Machine

/-! ### A skip by the condition its test decides -/

/-- `if p: PC <- PC + 2` by any Boolean test of `p`; PC is the only field that changes. -/
theorem skipIf_of_iff {c : Bool} {p : Prop} [Decidable p] (h : c = true ↔ p) (s : State) :
    skipIf c s = .next { s with PC := if p then s.PC + 2 else s.PC } := by
  rw [skipIf_eq, if_congr h rfl rfl]
  rfl

/-! ### The four instructions -/

section
variable (x y : RegIx) (nn : Byte) (s : State)

theorem exec_seImm : exec (.seImm x nn) s = .next { s with PC := if s.reg x = nn then s.PC + 2 else s.PC } :=
  skipIf_of_iff beq_iff_eq s

theorem exec_sneImm : exec (.sneImm x nn) s = .next { s with PC := if s.reg x ≠ nn then s.PC + 2 else s.PC } :=
  skipIf_of_iff bne_iff_ne s

theorem exec_seReg : exec (.seReg x y) s = .next { s with PC := if s.reg x = s.reg y then s.PC + 2 else s.PC } :=
  skipIf_of_iff beq_iff_eq s

theorem exec_sneReg : exec (.sneReg x y) s = .next { s with PC := if s.reg x ≠ s.reg y then s.PC + 2 else s.PC } :=
  skipIf_of_iff bne_iff_ne s

end

/-- Settles O18: the words by their form `xnn`, the runs by the test each skip makes. -/
theorem immediateSkips : Obligations.ImmediateSkips := by
  intro x nn s
  have hse : (encode (.seImm x nn)).toNat = _ := wordXNN_toNat 3 x nn (by decide)
  have hsne : (encode (.sneImm x nn)).toNat = _ := wordXNN_toNat 4 x nn (by decide)
  exact ⟨by omega, by omega, exec_seImm x nn s, exec_sneImm x nn s⟩

/-- Settles O19: the words by their form `xy` with the low nibble 0, the runs by the test each skip makes. -/
theorem registerSkips : Obligations.RegisterSkips := by
  intro x y s
  have hse : (encode (.seReg x y)).toNat = _ := wordXYN_toNat 5 x y 0 (by decide) (by decide)
  have hsne : (encode (.sneReg x y)).toNat = _ := wordXYN_toNat 9 x y 0 (by decide) (by decide)
  exact ⟨by omega, by omega, exec_seReg x y s, exec_sneReg x y s⟩

end Sys2Proof.Machine
end

section
/-! PROOFS of the register loads' and arithmetic's family (43_alu.md): what each instruction writes to V[x] and to VF, over two
shapes of write, a register alone and a result with its flag. -/

namespace Sys2Proof.Machine

/-! ### Words of the two forms -/

/-- The form `xnn`, its terms in the order of the word's pattern. -/
theorem wordXNN_toNat_pattern (op : Nat) (x : RegIx) (nn : Byte) (h : op < 16) :
    (wordXNN op x nn).toNat = op * 0x1000 + 0x100 * x.val + nn.toNat := by
  rw [wordXNN_toNat op x nn h, Nat.mul_comm x.val]

/-- The 8 family: its low nibble names the operation. -/
theorem wordXYN_eight_toNat (x y : RegIx) (n : Nat) (h : n < 16) :
    (wordXYN 8 x y n).toNat = (0x8000 + n) + 0x100 * x.val + 0x10 * y.val := by
  rw [wordXYN_toNat 8 x y n (by decide) h]
  omega

/-! ### What each instruction writes -/

section
variable (x y : RegIx) (nn : Byte) (s : State)

theorem exec_ldImm : exec (.ldImm x nn) s = .next (s.setReg x nn) := rfl

theorem exec_addImm :
    exec (.addImm x nn) s = .next (s.setReg x (BitVec.ofNat 8 (((s.reg x).toNat + nn.toNat) % 256))) := rfl

theorem exec_ldReg : exec (.ldReg x y) s = .next (s.setReg x (s.reg y)) := rfl

theorem exec_orReg : exec (.orReg x y) s = .next (s.setReg x (s.reg x ||| s.reg y)) := rfl

theorem exec_andReg : exec (.andReg x y) s = .next (s.setReg x (s.reg x &&& s.reg y)) := rfl

theorem exec_xorReg : exec (.xorReg x y) s = .next (s.setReg x (s.reg x ^^^ s.reg y)) := rfl

theorem exec_addReg : exec (.addReg x y) s =
    .next (s.setResultFlag x (BitVec.ofNat 8 (((s.reg x).toNat + (s.reg y).toNat) % 256)) (carry (s.reg x) (s.reg y))) := rfl

theorem exec_sub :
    exec (.sub x y) s = .next (s.setResultFlag x (s.reg x - s.reg y) (noBorrow (s.reg x) (s.reg y))) := rfl

theorem exec_subn :
    exec (.subn x y) s = .next (s.setResultFlag x (s.reg y - s.reg x) (noBorrow (s.reg y) (s.reg x))) := rfl

theorem exec_shr : exec (.shr x y) s = .next (s.setResultFlag x (s.reg x >>> 1) (lowBit (s.reg x))) := rfl

theorem exec_shl : exec (.shl x y) s = .next (s.setResultFlag x (s.reg x <<< 1) (highBit (s.reg x))) := rfl

theorem exec_rnd : exec (.rnd x nn) s = .next (s.countDraw.setReg x (Config.rngDraw s.rngDraws &&& nn)) := rfl

end

/-! ### The two shapes of write -/

section
variable {s : State} {x : RegIx} {v : Byte} {b : Bool}

theorem setReg_onlyReg : OnlyReg s (s.setReg x v) x := fun _ => State.setReg_reg_ne s v

theorem setReg_onlyV : OnlyV s (s.setReg x v) := rfl

theorem setResultFlag_onlyV : OnlyV s (s.setResultFlag x v b) := rfl

/-- The flag is written last, so that VF holds it even as the destination (R141, D11). -/
theorem setResultFlag_reg_flag : (s.setResultFlag x v b).reg 15 = flagByte b :=
  (setResultFlag_reg s x 15 v b).trans (if_pos rfl)

theorem setResultFlag_reg_result (hx : x ≠ 15) : (s.setResultFlag x v b).reg x = v :=
  (setResultFlag_reg s x x v b).trans ((if_neg hx).trans (if_pos rfl))

theorem setResultFlag_reg_other (j : RegIx) (hjx : j ≠ x) (hj : j ≠ 15) : (s.setResultFlag x v b).reg j = s.reg j :=
  (setResultFlag_reg s x j v b).trans ((if_neg hj).trans (if_neg hjx))

end

/-! ### Results and flags as numbers -/

/-- A sum reduced modulo 256 is a byte's number (R143, R148). -/
theorem ofNat_mod_byte_toNat (n : Nat) : (BitVec.ofNat 8 (n % 256)).toNat = n % 256 :=
  (BitVec.toNat_ofNat _ _).trans (Nat.mod_mod n 256)

section
variable (p q : Byte)

/-- A byte's difference is the integers' modulo 256 (R149, R151). -/
theorem byte_sub_toNat : ((p - q).toNat : Int) = (p.toNat - q.toNat : Int) % 256 := by
  have := p.isLt
  have := q.isLt
  rw [BitVec.toNat_sub]
  omega

theorem byte_shiftRight_toNat : (p >>> 1).toNat = p.toNat / 2 := by
  rw [BitVec.toNat_ushiftRight, Nat.shiftRight_one]

theorem byte_shiftLeft_toNat : (p <<< 1).toNat = p.toNat * 2 % 256 := by
  rw [BitVec.toNat_shiftLeft, Nat.shiftLeft_eq]

theorem flagByte_carry : flagByte (carry p q) = if 255 < p.toNat + q.toNat then 1 else 0 := by
  simp only [flagByte, carry, gt_iff_lt, decide_eq_true_eq]

theorem flagByte_noBorrow : flagByte (noBorrow p q) = if q.toNat ≤ p.toNat then 1 else 0 := by
  simp only [flagByte, noBorrow, ge_iff_le, decide_eq_true_eq]

theorem flagByte_toNat (b : Bool) : (flagByte b).toNat = b.toNat := by
  cases b <;> rfl

/-- Bit 0 is the remainder a right shift leaves (R150). -/
theorem flagByte_lowBit_toNat : (flagByte (lowBit p)).toNat = p.toNat % 2 := by
  rw [flagByte_toNat, lowBit, BitVec.getLsbD, Nat.toNat_testBit, pow_zero, Nat.div_one]

/-- Bit 7 is the quotient by 128, which for a byte is 0 or 1 (R152). -/
theorem flagByte_highBit_toNat : (flagByte (highBit p)).toNat = p.toNat / 128 := by
  have := p.isLt
  rw [flagByte_toNat, highBit, BitVec.getLsbD, Nat.toNat_testBit]
  omega

end

/-! ### The statements -/

/-- Settles O20: one register is written, by the byte or by the sum reduced. -/
theorem immediateLoadAndAdd : Obligations.ImmediateLoadAndAdd := by
  intro x nn s
  refine ⟨wordXNN_toNat_pattern 6 x nn (by decide), wordXNN_toNat_pattern 7 x nn (by decide), ?_, ?_⟩
  · exact ⟨_, exec_ldImm x nn s, State.setReg_reg_self .., setReg_onlyReg, setReg_onlyV⟩
  · refine ⟨_, exec_addImm x nn s, ?_, setReg_onlyReg, setReg_onlyV⟩
    rw [State.setReg_reg_self, ofNat_mod_byte_toNat]

/-- Settles O21: V[x] alone is written, and the operations on bytes are those on their bits. -/
theorem assignOrAndXor : Obligations.AssignOrAndXor := by
  intro x y s
  have hword := wordXYN_eight_toNat x y
  refine ⟨hword 0 (by decide), hword 1 (by decide), hword 2 (by decide), hword 3 (by decide), ?_, ?_, ?_, ?_⟩
  · exact ⟨_, exec_ldReg x y s, State.setReg_reg_self .., setReg_onlyReg, setReg_onlyV⟩
  · refine ⟨_, exec_orReg x y s, setReg_onlyReg, setReg_onlyV, fun k => ?_⟩
    rw [State.setReg_reg_self, BitVec.getLsbD_or]
  · refine ⟨_, exec_andReg x y s, setReg_onlyReg, setReg_onlyV, fun k => ?_⟩
    rw [State.setReg_reg_self, BitVec.getLsbD_and]
  · refine ⟨_, exec_xorReg x y s, setReg_onlyReg, setReg_onlyV, fun k => ?_⟩
    rw [State.setReg_reg_self, BitVec.getLsbD_xor]

/-- Settles O22: the sum reduced is the result, the carry the flag. -/
theorem addSetsCarry : Obligations.AddSetsCarry := by
  intro x y s
  refine ⟨wordXYN_eight_toNat x y 4 (by decide), _, exec_addReg x y s, fun hx => ?_, ?_, setResultFlag_reg_other, setResultFlag_onlyV⟩
  · rw [setResultFlag_reg_result hx, ofNat_mod_byte_toNat]
  · rw [setResultFlag_reg_flag, flagByte_carry]

/-- Any instruction that writes `p - q` and its flag does what R149 and R151 say; they differ in the operands alone. -/
theorem exec_difference {i : Instr} {s : State} {x : RegIx} {p q : Byte}
    (h : exec i s = .next (s.setResultFlag x (p - q) (noBorrow p q))) :
    ∃ t, exec i s = .next t ∧ (x ≠ 15 → ((t.reg x).toNat : Int) = (p.toNat - q.toNat : Int) % 256) ∧
      t.reg 15 = (if q.toNat ≤ p.toNat then 1 else 0) ∧ (∀ j, j ≠ x → j ≠ 15 → t.reg j = s.reg j) ∧ OnlyV s t := by
  refine ⟨_, h, fun hx => ?_, ?_, setResultFlag_reg_other, setResultFlag_onlyV⟩
  · rw [setResultFlag_reg_result hx, byte_sub_toNat]
  · rw [setResultFlag_reg_flag, flagByte_noBorrow]

/-- Settles O23, from the rule of a difference, once with each order of the operands. -/
theorem subtractionsSetNoBorrow : Obligations.SubtractionsSetNoBorrow := fun x y s =>
  ⟨wordXYN_eight_toNat x y 5 (by decide), wordXYN_eight_toNat x y 7 (by decide), exec_difference (exec_sub x y s),
    exec_difference (exec_subn x y s)⟩

/-- Settles O24: halving leaves bit 0, doubling modulo 256 leaves bit 7, and y is in neither write. -/
theorem shiftsMoveTheBitOutToVF : Obligations.ShiftsMoveTheBitOutToVF := by
  intro x y s
  refine ⟨wordXYN_eight_toNat x y 6 (by decide), wordXYN_eight_toNat x y 0xE (by decide), ?_, ?_⟩
  · refine ⟨_, exec_shr x y s, fun hx => ?_, ?_, setResultFlag_reg_other, setResultFlag_onlyV⟩
    · rw [setResultFlag_reg_result hx, byte_shiftRight_toNat]
    · rw [setResultFlag_reg_flag, flagByte_lowBit_toNat]
  · refine ⟨_, exec_shl x y s, fun hx => ?_, ?_, setResultFlag_reg_other, setResultFlag_onlyV⟩
    · rw [setResultFlag_reg_result hx, byte_shiftLeft_toNat]
    · rw [setResultFlag_reg_flag, flagByte_highBit_toNat]

/-- Settles O25: the draw is counted first, which no register reads, then its masked value is written. -/
theorem rndMasksOneDraw : Obligations.RndMasksOneDraw := by
  intro x nn s
  refine ⟨wordXNN_toNat_pattern 0xC x nn (by decide), _, exec_rnd x nn s, fun k => ?_, rfl, setReg_onlyReg (s := s.countDraw), rfl⟩
  rw [State.setReg_reg_self, BitVec.getLsbD_and]

end Sys2Proof.Machine
end

section
/-! PROOFS of the index register's and memory's family (44_index_memory.md): what I becomes, and what each access at I stores or
loads in range and raises out of it. -/

namespace Sys2Proof.Machine

/-! ### Words of the form Fx -/

/-- The word as the tables write it: the pattern plus the register's field (R71). -/
theorem wordX_F_toNat (x : RegIx) (nn : Nat) (h : nn < 256) : (wordX 0xF x nn).toNat = 0xF000 + nn + 0x100 * x.val := by
  have := wordX_toNat 0xF x nn (by decide) h
  omega

/-! ### An access at I, in range and out of it -/

section
variable {s : State} {n : Nat} {i : Instr} {f : State → Result}

/-- The last of `n + 1` bytes at I is at `I + n`. -/
theorem indexInRange_succ_iff : s.indexInRange (n + 1) = true ↔ s.I.toNat + n ≤ 0xFFF := by
  rw [indexInRange_iff, memSize]
  omega

theorem withIndexed_of_in_range (h : s.I.toNat + n ≤ 0xFFF) : withIndexed (n + 1) i f s = f s :=
  if_pos (indexInRange_succ_iff.mpr h)

/-- Out of range nothing of the access happens: the latch holds the lowest address outside memory (R55, R171). -/
theorem withIndexed_of_out_of_range {a : Word} (hpc : s.PC = a + 2) (h : 0xFFF < s.I.toNat + n) :
    withIndexed (n + 1) i f s = .next { s with
      PC := a, fault := some ⟨.memoryOutOfBounds, a, some (encode i), some (max s.I.toNat 0x1000)⟩ } :=
  (if_neg (mt indexInRange_succ_iff.mp (Nat.not_le.mpr h))).trans (raise_of_PC hpc ..)

end

/-! ### A run of bytes stored -/

section
variable {s : State} (hm : s.memory.wf s.config.font) (a : Nat) (vs : List Byte)
include hm

theorem writeRun_storesOnly : StoresOnly s (s.writeRun a vs) a vs.length :=
  fun b hb => readByte_writeRun_outside s a b vs hm.1 hb

/-- The run's `k`-th byte is at its `k`-th address. -/
theorem readByte_writeRun_inside {k : Nat} {v : Byte} (hv : vs[k]? = some v) : (s.writeRun a vs).readByte (a + k) = v := by
  rw [readByte_writeRun s a _ vs hm.1, if_pos (Nat.le_add_right a k), Nat.add_sub_cancel_left, hv, Option.getD_some]

end

/-! ### The six instructions -/

section
variable (x : RegIx) (s : State)

theorem exec_ldI (nnn : BitVec 12) : exec (.ldI nnn) s = .next (s.setI (zextNNN nnn)) := rfl

theorem exec_addI : exec (.addI x) s = .next (s.setI (BitVec.ofNat 16 ((s.I.toNat + (s.reg x).toNat) % 4096))) := rfl

theorem exec_ldF : exec (.ldF x) s = .next (s.setI (BitVec.ofNat 16 (fontBase + (s.reg x).toNat * 5))) := rfl

theorem exec_ldB : exec (.ldB x) s =
    withIndexed 3 (.ldB x) (fun s => .next (s.writeRun s.indexAddr (bcdDigits (s.reg x)))) s := rfl

theorem exec_ldMemX : exec (.ldMemX x) s =
    withIndexed (x.val + 1) (.ldMemX x) (fun s => .next (s.writeRun s.indexAddr (s.regsUpTo x))) s := rfl

theorem exec_ldXMem : exec (.ldXMem x) s =
    withIndexed (x.val + 1) (.ldXMem x) (fun s => .next (s.loadRegsUpTo x)) s := rfl

end

/-- Settles O29: out of range the access raises; in range each stored digit is below 256, so that its byte is its number. -/
theorem ldBStoresDecimalDigits : Obligations.LdBStoresDecimalDigits := by
  refine fun x s a hpc => ⟨wordX_F_toNat x 0x33 (by decide), fun h => ?_, fun hm h => ?_⟩
  · rw [exec_ldB, withIndexed_of_out_of_range hpc h]
  · have := (s.reg x).isLt
    have hdigit (k n : Nat) (hn : n < 256) (hk : (bcdDigits (s.reg x))[k]? = some (BitVec.ofNat 8 n)) :
        ((s.writeRun s.indexAddr (bcdDigits (s.reg x))).readByte (s.indexAddr + k)).toNat = n := by
      rw [readByte_writeRun_inside hm _ _ hk, BitVec.toNat_ofNat, Nat.mod_eq_of_lt hn]
    exact ⟨_, (exec_ldB x s).trans (withIndexed_of_in_range h), hdigit 0 _ (by omega) rfl, hdigit 1 _ (by omega) rfl,
      hdigit 2 _ (by omega) rfl, writeRun_storesOnly hm _ _, rfl⟩

/-- Settles O30: in range V[j] is the run's `j`-th byte, and the run is `x + 1` bytes long. -/
theorem ldMemStoresRegisters : Obligations.LdMemStoresRegisters := by
  refine fun x s a hpc => ⟨wordX_F_toNat x 0x55 (by decide), fun h => ?_, fun hm h => ?_⟩
  · rw [exec_ldMemX, withIndexed_of_out_of_range hpc h]
  · refine ⟨_, (exec_ldMemX x s).trans (withIndexed_of_in_range h), fun j hj => ?_, ?_, rfl⟩
    · exact readByte_writeRun_inside hm _ _ (regsUpTo_getElem s x j hj)
    · rw [← regsUpTo_length s x]
      exact writeRun_storesOnly hm _ _

/-- Settles O31: in range a register up to `x` is its byte at I, any other is kept. -/
theorem ldFromMemLoadsRegisters : Obligations.LdFromMemLoadsRegisters := by
  refine fun x s a hpc => ⟨wordX_F_toNat x 0x65 (by decide), fun h => ?_, fun h => ?_⟩
  · rw [exec_ldXMem, withIndexed_of_out_of_range hpc h]
  · refine ⟨_, (exec_ldXMem x s).trans (withIndexed_of_in_range h), fun j hj => ?_, fun j hj => ?_, rfl⟩
    · exact (loadRegsUpTo_reg s x j).trans (if_pos hj)
    · exact (loadRegsUpTo_reg s x j).trans (if_neg (not_le.mpr hj))

/-- Settles O26. -/
theorem ldISetsI : Obligations.LdISetsI := fun nnn s =>
  ⟨wordNNN_toNat 0xA nnn (by decide), _, exec_ldI s nnn, zextNNN_toNat nnn, rfl⟩

/-- Settles O27: a remainder modulo 4096 fits I's 16 bits. -/
theorem addIWrapsModulo4096 : Obligations.AddIWrapsModulo4096 := by
  intro x s
  refine ⟨wordX_F_toNat x 0x1E (by decide), _, exec_addI x s, ?_, rfl⟩
  rw [State.setI_I, BitVec.toNat_ofNat, Nat.mod_eq_of_lt (by omega)]

/-- Settles O28: the glyph of the greatest byte is at 0x54B, far below 2^16. -/
theorem ldFPointsAtGlyph : Obligations.LdFPointsAtGlyph := by
  intro x s
  have := (s.reg x).isLt
  refine ⟨wordX_F_toNat x 0x29 (by decide), _, exec_ldF x s, ?_, rfl⟩
  rw [State.setI_I, BitVec.toNat_ofNat, fontBase, Nat.mod_eq_of_lt (by omega)]

end Sys2Proof.Machine
end

section
/-! PROOFS of the display's family (45_display.md): clearing the screen, and a draw said cell by cell through `SpriteSets`, from
which both a single draw and a repeated one follow. -/

namespace Sys2Proof.Machine

/-! ### The two instructions -/

/-- The state DRW ends in when the sprite is in memory (R192, R193). -/
def State.draw (s : State) (x y : RegIx) (n : Fin 16) : State :=
  s.blit (s.reg x) (s.reg y) (s.readRun s.indexAddr n.val)

theorem exec_cls (s : State) : exec .cls s = .next (s.setDisplay clearDisplay true) := rfl

section
variable (x y : RegIx) (n : Fin 16) (s : State)

theorem exec_drw : exec (.drw x y n) s = withIndexed n.val (.drw x y n) (fun s => .next (s.draw x y n)) s := rfl

variable {x y n s}

theorem exec_drw_of_in_range (h : n.val = 0 ∨ s.I.toNat + n.val - 1 ≤ 0xFFF) :
    exec (.drw x y n) s = .next (s.draw x y n) := by
  have hr : s.indexInRange n.val = true := by
    rw [indexInRange_iff, memSize]
    omega
  exact (exec_drw x y n s).trans (if_pos hr)

/-- A sprite that runs past the last byte has a last row, numbered from 0. -/
theorem exec_drw_of_out_of_range {a : Word} (hpc : s.PC = a + 2) (hn : 0 < n.val) (h : 0xFFF < s.I.toNat + n.val - 1) :
    exec (.drw x y n) s = .next { s with
      PC := a, fault := some ⟨.memoryOutOfBounds, a, some (encode (.drw x y n)), some (max s.I.toNat 0x1000)⟩ } := by
  obtain ⟨m, hm⟩ := Nat.exists_eq_add_one_of_ne_zero hn.ne'
  rw [exec_drw, hm, withIndexed_of_out_of_range hpc (by omega)]

/-! ### What a draw does to a cell, to VF and to the other registers -/

/-- A sprite of at most 15 rows never wraps onto itself, so R193's loops toggle each cell it sets once (R194). -/
theorem blitRows_sprite_spec (s : State) (cx cy : Byte) (n : Fin 16) (d : BlitState) :
    (∀ r c, (SpriteSets s cx cy n.val r c →
        cell (blitRows cx cy 0 (s.readRun s.indexAddr n.val) d).display r c = !cell d.display r c) ∧
      (¬ SpriteSets s cx cy n.val r c →
        cell (blitRows cx cy 0 (s.readRun s.indexAddr n.val) d).display r c = cell d.display r c)) ∧
    ((blitRows cx cy 0 (s.readRun s.indexAddr n.val) d).collided = true ↔
      d.collided = true ∨ ∃ r c, SpriteSets s cx cy n.val r c ∧ cell d.display r c = true) := by
  have hl : 0 + (s.readRun s.indexAddr n.val).length ≤ 32 := by
    rw [State.readRun, Memory.length_readRun]
    omega
  simpa only [spriteSets_iff] using blitRows_spec cx cy _ 0 hl d

theorem cell_draw_of_sets {r : Fin displayH} {c : Fin displayW} (h : SpriteSets s (s.reg x) (s.reg y) n.val r c) :
    cell (s.draw x y n).display r c = !cell s.display r c := by
  obtain ⟨hcell, -⟩ := blitRows_sprite_spec s (s.reg x) (s.reg y) n ⟨s.display, false⟩
  exact (hcell r c).1 h

theorem cell_draw_of_not_sets {r : Fin displayH} {c : Fin displayW} (h : ¬ SpriteSets s (s.reg x) (s.reg y) n.val r c) :
    cell (s.draw x y n).display r c = cell s.display r c := by
  obtain ⟨hcell, -⟩ := blitRows_sprite_spec s (s.reg x) (s.reg y) n ⟨s.display, false⟩
  exact (hcell r c).2 h

/-- VF is the flag of the collision (R194). -/
theorem draw_flag (s : State) (x y : RegIx) (n : Fin 16) : ∃ b, (s.draw x y n).reg 15 = flagByte b ∧
    (b = true ↔ ∃ r c, SpriteSets s (s.reg x) (s.reg y) n.val r c ∧ cell s.display r c = true) := by
  obtain ⟨-, hcoll⟩ := blitRows_sprite_spec s (s.reg x) (s.reg y) n ⟨s.display, false⟩
  exact ⟨_, State.setReg_reg_self .., hcoll.trans (or_iff_right Bool.false_ne_true)⟩

theorem draw_flag_of_collision
    (h : ∃ r c, SpriteSets s (s.reg x) (s.reg y) n.val r c ∧ cell s.display r c = true) : (s.draw x y n).reg 15 = 1 := by
  obtain ⟨b, hb, hiff⟩ := draw_flag s x y n
  rw [hb, hiff.mpr h]
  rfl

theorem draw_flag_of_no_collision
    (h : ∀ r c, SpriteSets s (s.reg x) (s.reg y) n.val r c → cell s.display r c = false) : (s.draw x y n).reg 15 = 0 := by
  obtain ⟨b, hb, hiff⟩ := draw_flag s x y n
  have hoff : b = false := Bool.eq_false_iff.mpr fun e => by
    obtain ⟨r, c, hset, hon⟩ := hiff.mp e
    exact Bool.false_ne_true ((h r c hset).symm.trans hon)
  rw [hb, hoff]
  rfl

theorem draw_onlyReg : OnlyReg s (s.draw x y n) 15 := setReg_onlyReg (s := s.setDisplay _ true)

/-! ### A second draw -/

/-- A draw leaves memory and I alone, and V[x] and V[y] unless one of them is VF, so a second draw sets the same cells. -/
theorem spriteSets_draw (hx : x ≠ 15) (hy : y ≠ 15) (r : Fin displayH) (c : Fin displayW) :
    SpriteSets (s.draw x y n) ((s.draw x y n).reg x) ((s.draw x y n).reg y) n.val r c ↔
      SpriteSets s (s.reg x) (s.reg y) n.val r c := by
  rw [draw_onlyReg x hx, draw_onlyReg y hy]
  rfl

/-- XOR undoes itself (R196). -/
theorem draw_draw_display (hx : x ≠ 15) (hy : y ≠ 15) : ((s.draw x y n).draw x y n).display = s.display := by
  refine display_ext fun r c => ?_
  by_cases h : SpriteSets s (s.reg x) (s.reg y) n.val r c
  · rw [cell_draw_of_sets ((spriteSets_draw hx hy r c).mpr h), cell_draw_of_sets h, Bool.not_not]
  · rw [cell_draw_of_not_sets (mt (spriteSets_draw hx hy r c).mp h), cell_draw_of_not_sets h]

/-- From a cleared screen a draw sets exactly the sprite's pixels (R196). -/
theorem cell_draw_of_cleared (h0 : ∀ r c, cell s.display r c = false) (r : Fin displayH) (c : Fin displayW) :
    cell (s.draw x y n).display r c = true ↔ SpriteSets s (s.reg x) (s.reg y) n.val r c := by
  by_cases h : SpriteSets s (s.reg x) (s.reg y) n.val r c
  · simp [cell_draw_of_sets h, h0, h]
  · simp [cell_draw_of_not_sets h, h0, h]

/-- A sprite of one row at (63, 31) wraps to columns 0 to 6 and stays in its row (R196). -/
theorem spriteSets_last_cell {r : Fin displayH} {c : Fin displayW} (h : SpriteSets s 63 31 1 r c) :
    r.val = 31 ∧ (c.val = 63 ∨ c.val ≤ 6) := by
  obtain ⟨row, col, hrow, hcol, -, hr, hc⟩ := h
  have h63 : (63 : Byte).toNat = 63 := rfl
  have h31 : (31 : Byte).toNat = 31 := rfl
  omega

end

/-- Settles O34: the second draw sets the same cells, and on a cleared screen these are exactly the cells then on. -/
theorem drawingTwiceRestoresTheDisplay : Obligations.DrawingTwiceRestoresTheDisplay := by
  intro x y n s hx hy hr
  refine ⟨_, _, exec_drw_of_in_range hr, exec_drw_of_in_range (s := s.draw x y n) hr, draw_draw_display hx hy, fun h0 =>
    ⟨draw_flag_of_no_collision fun r c _ => h0 r c, cell_draw_of_cleared h0, ?_, ?_⟩⟩
  · rintro ⟨r, c, h⟩
    exact draw_flag_of_collision ⟨r, c, (spriteSets_draw hx hy r c).mpr h, (cell_draw_of_cleared h0 r c).mpr h⟩
  · rintro h63 h31 rfl r c hon
    have h := (cell_draw_of_cleared h0 r c).mp hon
    rw [h63, h31] at h
    exact spriteSets_last_cell h

/-- Settles O33: out of range the access raises; in range each clause is a fact about the draw. -/
theorem drwTogglesTheSprite : Obligations.DrwTogglesTheSprite := by
  refine fun x y n s a hpc => ⟨?_, exec_drw_of_out_of_range hpc, fun h => ⟨s.draw x y n, exec_drw_of_in_range h,
    fun _ _ => cell_draw_of_sets, fun _ _ => cell_draw_of_not_sets, draw_flag_of_collision, draw_flag_of_no_collision,
    rfl, draw_onlyReg, rfl⟩⟩
  have hword : (encode (.drw x y n)).toNat = _ := wordXYN_toNat 0xD x y n.val (by decide) n.isLt
  omega

/-- Settles O32. -/
theorem clsClearsTheDisplay : Obligations.ClsClearsTheDisplay :=
  ⟨rfl, fun s => ⟨_, exec_cls s, cell_clearDisplay, rfl, rfl⟩⟩

end Sys2Proof.Machine
end

section
/-! PROOFS of the keys' and timers' family (46_timers_keys.md): the skips on a key latch, and the loads of a timer or of
awaiting_key, each alone and followed by its step's tick. -/

namespace Sys2Proof.Machine

/-! ### The six instructions -/

section
variable (x : RegIx) (s : State)

theorem exec_skp : exec (.skp x) s = withKeyIndex x (.skp x) (fun k s => skipIf (s.keys.get k) s) s := rfl

theorem exec_sknp : exec (.sknp x) s = withKeyIndex x (.sknp x) (fun k s => skipIf (!s.keys.get k) s) s := rfl

theorem exec_ldXDt : exec (.ldXDt x) s = .next (s.setReg x s.DT) := rfl

theorem exec_ldDtX : exec (.ldDtX x) s = .next (s.setDT (s.reg x)) := rfl

theorem exec_ldStX : exec (.ldStX x) s = .next (s.setST (s.reg x)) := rfl

theorem exec_ldXK : exec (.ldXK x) s = .next (s.setAwaiting (some x)) := rfl

end

/-! ### A key index up to 0xF and above it -/

/-- The form `x` of the E family, its terms in the order of the word's pattern (R71). -/
theorem wordX_E_toNat (x : RegIx) (nn : Nat) (h : nn < 256) : (wordX 0xE x nn).toNat = 0xE000 + nn + 0x100 * x.val := by
  have := wordX_toNat 0xE x nn (by decide) h
  omega

section
variable {x : RegIx} {i : Instr} {f : Fin 16 → State → Result} {s : State}

theorem withKeyIndex_of_eq {k : Fin 16} (h : (s.reg x).toNat = k.val) : withKeyIndex x i f s = f k s := by
  rcases withKeyIndex_cases x i f s with ⟨j, hj, he⟩ | ⟨hx, -⟩
  · rw [he, Fin.ext (hj.symm.trans h)]
  · omega

/-- Above 0xF the skip does not happen: the latch holds the number (R212). -/
theorem withKeyIndex_of_gt {a : Word} (hpc : s.PC = a + 2) (h : 0xF < (s.reg x).toNat) :
    withKeyIndex x i f s = .next { s with
      PC := a, fault := some ⟨.keyIndexOutOfRange, a, some (encode i), some (s.reg x).toNat⟩ } := by
  rcases withKeyIndex_cases x i f s with ⟨k, hk, -⟩ | ⟨-, he⟩
  · omega
  · exact he.trans (raise_of_PC hpc ..)

end

/-- Settles O35: above 0xF both raise; up to 0xF each skips by its test of the latch. -/
theorem keySkipsReadTheLatch : Obligations.KeySkipsReadTheLatch := by
  refine fun x s a hpc => ⟨wordX_E_toNat x 0x9E (by decide), wordX_E_toNat x 0xA1 (by decide),
    fun h => ⟨?_, ?_⟩, fun k hk => ⟨?_, ?_⟩⟩
  · rw [exec_skp, withKeyIndex_of_gt hpc h]
  · rw [exec_sknp, withKeyIndex_of_gt hpc h]
  · rw [exec_skp, withKeyIndex_of_eq hk, skipIf_of_iff .rfl]
  · rw [exec_sknp, withKeyIndex_of_eq hk, skipIf_of_iff (Bool.not_eq_true' _).to_iff]

/-! ### The timers -/

/-- A step whose instruction does not fault ends in what the instruction leaves, ticked (R95). -/
theorem step_eq_tick {s t : State} {i : Instr} (h : s.FetchesInstr i) (he : exec i s.advance = .next t)
    (ht : t.fault = s.fault) : step s = .next t.tick := by
  rw [step_of_exec h he, afterExec_eq_ite, if_pos (ht.trans h.no_fault)]

/-- Settles O36: the tick comes after the register has DT's value, and counts down DT, which Fx07 leaves alone. -/
theorem ldVxDTReadsBeforeTheTick : Obligations.LdVxDTReadsBeforeTheTick := by
  refine fun x s => ⟨wordX_F_toNat x 0x07 (by decide),
    ⟨_, exec_ldXDt x s, State.setReg_reg_self .., setReg_onlyReg, setReg_onlyV⟩, fun h => ?_⟩
  exact ⟨_, step_eq_tick h (exec_ldXDt x s.advance) rfl, State.setReg_reg_self .., countDown_toNat s.DT⟩

/-- Settles O37: the tick counts down the value just loaded. -/
theorem timerLoadsAreTickedAtOnce : Obligations.TimerLoadsAreTickedAtOnce := by
  refine fun x s => ⟨wordX_F_toNat x 0x15 (by decide), wordX_F_toNat x 0x18 (by decide), exec_ldDtX x s, exec_ldStX x s,
    fun h => ?_, fun h => ?_⟩
  · exact ⟨_, step_eq_tick h (exec_ldDtX x s.advance) rfl, countDown_toNat (s.reg x)⟩
  · exact ⟨_, step_eq_tick h (exec_ldStX x s.advance) rfl, countDown_toNat (s.reg x)⟩

/-! ### The wait for a key -/

section
variable {s : State}

/-- In corrected mode a step waits while awaiting_key is set (R91). -/
theorem waits_of_corrected {r : RegIx} (hr : s.awaitingKey = some r) (hm : s.config.keyWaitMode = .corrected) :
    s.waits = true := by
  simp [State.waits, hr, hm]

/-- In reference mode no step waits (R91). -/
theorem not_waits_of_reference (hm : s.config.keyWaitMode = .reference) : s.waits = false := by
  simp [State.waits, hm]

/-- A step that waits returns `Waiting` (R91, R96). -/
theorem stepResult_of_waits (hf : s.fault = none) (hw : s.waits = true) : stepResult s = some .waiting := by
  simp [stepResult, hf, hw]

end

/-- Settles O38: the next step waits by the mode, which the step of Fx0A leaves alone. -/
theorem ldVxKSetsAwaitingKey : Obligations.LdVxKSetsAwaitingKey := by
  refine fun x s => ⟨wordX_F_toNat x 0x0A (by decide), exec_ldXK x s, fun h => ?_⟩
  exact ⟨_, step_eq_tick h (exec_ldXK x s.advance) rfl, rfl, rfl, rfl,
    fun hm => stepResult_of_waits h.no_fault (waits_of_corrected rfl hm), fun hm => not_waits_of_reference hm⟩

end Sys2Proof.Machine
end

section
/-! PROOFS of the host interface's family (48_host_interface.md): loading a program, the key events, the display's dirty flag, and
the driver's frame of steps. -/

namespace Sys2Proof.Machine

/-! ### Loading a program -/

section
variable {s : State} {rom : List Byte}

/-- The size is checked first: nothing is reset for a program that does not fit (R231). -/
theorem loadProgram_of_gt (h : maxRom < rom.length) : s.loadProgram rom = .error .romTooLarge := if_pos h

theorem loadProgram_of_le (h : rom.length ≤ maxRom) : s.loadProgram rom = .ok (s.resetOp.writeRun progBase rom) :=
  if_neg (Nat.not_lt.mpr h)

end

/-- Settles O49: what is loaded is a run of bytes stored in the reset state, whose memory is canonical. -/
theorem loadProgramChecksThenCopies : Obligations.LoadProgramChecksThenCopies := by
  refine fun rom s => ⟨loadProgram_of_gt, fun h => ⟨_, loadProgram_of_le h, fun i hi => ?_, ?_, rfl⟩⟩
  · exact readByte_writeRun_inside (State.Inv.resetOp s).memory_wf _ _ (List.getElem?_eq_getElem hi)
  · exact writeRun_storesOnly (State.Inv.resetOp s).memory_wf _ _

/-! ### Key events -/

section
variable {s : State} {k : Nat}

theorem keyUp_of_gt (h : 0xF < k) : s.keyUp k = .error .badKeyIndex := dif_neg (Nat.not_lt.mpr h)

theorem keyUp_of_lt (h : k < 16) : s.keyUp k = .ok (s.setKey ⟨k, h⟩ false) := dif_pos h

theorem keyDown_of_gt (h : 0xF < k) : s.keyDown k = .error .badKeyIndex := dif_neg (Nat.not_lt.mpr h)

/-- With no register waiting nothing is delivered (R234). -/
theorem keyDown_of_no_wait (h : k < 16) (ha : s.awaitingKey = none) : s.keyDown k = .ok (s.setKey ⟨k, h⟩ true) := by
  simp [State.keyDown, State.deliverKey, h, ha]

/-- The waiting register gets the key's number, and the wait ends (R234). -/
theorem keyDown_of_wait (h : k < 16) {r : RegIx} (ha : s.awaitingKey = some r) :
    s.keyDown k = .ok (((s.setKey ⟨k, h⟩ true).setReg r (BitVec.ofNat 8 k)).setAwaiting none) := by
  simp [State.keyDown, State.deliverKey, h, ha]

end

section
variable (s : State) (k : Fin 16) (b : Bool)

theorem setKey_get_self : (s.setKey k b).keys.get k = b := (State.setKey_get ..).trans (if_pos rfl)

theorem setKey_get_ne : ∀ j, j ≠ k → (s.setKey k b).keys.get j = s.keys.get j :=
  fun _ h => (State.setKey_get ..).trans (if_neg h)

end

/-- Settles O50: each key number up to 0xF has its latch, and key_down beside that a register to deliver to or none. -/
theorem keyEventsSetLatchesAndDeliver : Obligations.KeyEventsSetLatchesAndDeliver := by
  refine fun s k => ⟨fun h => ⟨keyDown_of_gt h, keyUp_of_gt h⟩, fun h =>
    ⟨⟨_, keyUp_of_lt h, setKey_get_self s _ _, setKey_get_ne s _ _, rfl⟩, ?_⟩⟩
  obtain ha | ⟨r, ha⟩ := s.awaitingKey.eq_none_or_eq_some
  · exact ⟨_, keyDown_of_no_wait h ha, setKey_get_self s _ _, setKey_get_ne s _ _, ha, fun _ => rfl,
      fun r hr => absurd (hr.symm.trans ha) (Option.some_ne_none r)⟩
  · refine ⟨_, keyDown_of_wait h ha, setKey_get_self s _ _, setKey_get_ne s _ _, rfl,
      fun hn => absurd (ha.symm.trans hn) (Option.some_ne_none r), fun r' hr => ?_⟩
    obtain rfl : r = r' := Option.some.inj (ha.symm.trans hr)
    have hbyte : (BitVec.ofNat 8 k).toNat = k := (BitVec.toNat_ofNat ..).trans (Nat.mod_eq_of_lt (by omega))
    exact ⟨(congrArg BitVec.toNat (State.setReg_reg_self ..)).trans hbyte,
      setReg_onlyReg (s := s.setKey ⟨k, h⟩ true), rfl⟩

/-! ### A frame of steps -/

section
variable {s t : State}

/-- A machine with a fault latched takes no step (R90). -/
theorem step_of_latched {r : FaultRecord} (h : s.fault = some r) : step s = .fault (.faulted r) := by
  rw [step, cycle, h]

/-- Nor does a frame of it, whatever its length. -/
theorem runSteps_of_latched (h : s.fault ≠ none) (n : Nat) : runSteps n s = s := by
  obtain ⟨r, hr⟩ := Option.ne_none_iff_exists'.mp h
  cases n with
  | zero => rfl
  | succ n => rw [runSteps, step_of_latched hr]

/-- A frame goes on from where its first step ends: if that latched a fault, the rest of it does nothing. -/
theorem runSteps_succ_of_next (n : Nat) (h : step s = .next t) : runSteps (n + 1) s = runSteps n t := by
  simp only [runSteps, h]
  split
  · next ht => exact (runSteps_of_latched (Option.isSome_iff_ne_none.mp ht) n).symm
  · rfl

end

/-- The steps of a frame are a run of `step`, which falls short of the frame's length only at a fault (R239). -/
theorem runSteps_stepsTo (n : Nat) :
    ∀ s, ∃ k, k ≤ n ∧ stepsTo k s (runSteps n s) ∧ (k < n → (runSteps n s).fault ≠ none) := by
  induction n with
  | zero => exact fun s => ⟨0, le_rfl, rfl, fun h => absurd h (Nat.lt_irrefl 0)⟩
  | succ n ih =>
    intro s
    by_cases hf : s.fault = none
    · obtain ⟨t, ht⟩ := step_next hf
      obtain ⟨k, hk, hrun, hshort⟩ := ih t
      rw [runSteps_succ_of_next n ht]
      exact ⟨k + 1, Nat.succ_le_succ hk, ⟨t, ht, hrun⟩, fun h => hshort (Nat.lt_of_succ_lt_succ h)⟩
    · rw [runSteps_of_latched hf]
      exact ⟨0, Nat.zero_le _, rfl, fun _ => hf⟩

/-- Settles O51: the frame's steps are `runSteps`, and what follows them reads the display and clears the flag. -/
theorem displayReadAndDirtyFlag : Obligations.DisplayReadAndDirtyFlag := by
  intro s
  obtain ⟨k, hk, hrun, hshort⟩ := runSteps_stepsTo s.config.cyclesPerFrame s
  exact ⟨rfl, rfl, rfl, k, _, hk, hrun, hshort, rfl, rfl, rfl⟩

end Sys2Proof.Machine
end

section
/-! PROOFS of the exceptions' family (60_exceptions.md) and of what 40_step_cycle.md and 70_reset_and_hazards.md say of a step that
is not an instruction's: the latched fault, the wait, the faults of fetch and decode, and the store that the next fetch sees. -/

namespace Sys2Proof.Machine

/-! ### The outcomes of a step that no instruction decides -/

section
variable {s t : State}

/-- A step that waits does `waitStep` and nothing else (R91). -/
theorem step_of_waits (hf : s.fault = none) (hw : s.waits = true) : step s = .next s.waitStep := by
  simp [step, cycle, hf, hw]

/-- A fetch of which a byte is outside memory latches `MemoryOutOfBounds` in the state of the step's start (R92). -/
theorem step_of_fetch_out (hf : s.fault = none) (hw : s.waits = false) (hpc : 0xFFE < s.PC.toNat) :
    step s = .next (s.latch .memoryOutOfBounds none (some (max s.PC.toNat 0x1000))) := by
  have hr : s.fetchInRange = false := decide_eq_false (Nat.not_le.mpr hpc)
  simp [step, cycle, fetchAndRun, hf, hw, hr]

/-- A fetched word that is no instruction's latches `IllegalOpcode` there (R93). -/
theorem step_of_undecodable {e : DecodeReject} (h : s.Fetches) (he : decode s.fetchWord = .error e) :
    step s = .next (s.latch .illegalOpcode (some s.fetchWord) none) := by
  have hr : s.fetchInRange = true := decide_eq_true h.in_range
  simp [step, cycle, fetchAndRun, h.no_fault, h.no_wait, hr, he]

/-- What `step()` returns is read off the latch of the state it leaves, unless it waits (R96). -/
theorem stepResult_of_next (hw : s.waits = false) (h : step s = .next t) : stepResult s = some t.resultAfter := by
  rw [step] at h
  simp [stepResult, hw, h]

/-- With a fault latched `step()` returns `Faulted` (R90, R96). -/
theorem stepResult_of_latched {r : FaultRecord} (h : s.fault = some r) : stepResult s = some (.faulted r) := by
  simp [stepResult, cycle, h]

end

/-- Settles O10: of the two addresses that can lie outside memory, PC and PC + 1, the record has the lowest that does. -/
theorem fetchOutOfBoundsFaults : Obligations.FetchOutOfBoundsFaults := fun _ => step_of_fetch_out

/-! ### Faulting steps -/

/-- Settles O11: fetch and decode latch in the state of the step's start, and so does an instruction that raises; every other
step leaves no fault latched. -/
theorem faultingStepChangesOnlyTheLatch : Obligations.FaultingStepChangesOnlyTheLatch := by
  intro s t r h ht
  suffices hl : s.waits = false ∧ ∃ k w addr, t = s.latch k w addr by
    obtain ⟨hw, k, w, addr, rfl⟩ := hl
    obtain rfl := Option.some.inj ht
    exact ⟨rfl, rfl, stepResult_of_next hw h⟩
  obtain ⟨hf, ⟨-, rfl⟩ | ⟨hw, -, rfl⟩ | ⟨hfetch, -, rfl⟩ | ⟨i, u, hi, hu, rfl⟩⟩ := step_cases h
  · obtain ⟨d, v, hwait⟩ := waitStep_eq s
    rw [hwait] at ht
    cases hf.symm.trans ht
  · exact ⟨hw, _, _, _, rfl⟩
  · exact ⟨hfetch.no_wait, _, _, _, rfl⟩
  · refine ⟨hi.no_wait, ?_⟩
    rcases exec_cases i s.advance with ⟨k, addr, hr⟩ | ⟨u', hu', hlatch⟩
    · rw [raise_advance] at hr
      cases hu.symm.trans hr
      exact ⟨k, some (encode i), addr, rfl⟩
    · cases hu.symm.trans hu'
      obtain ⟨d, v, htick⟩ := afterExec_eq u
      rw [htick] at ht
      cases (hlatch.trans hf).symm.trans ht

/-! ### Illegal words -/

/-- The words of R77: those whose op has an arm in R74 but whose low nibble or low byte has none there. -/
def Reserved (w : Word) : Prop :=
  ((fieldOp w = 0x5 ∨ fieldOp w = 0x9) ∧ field w 3 0 ≠ 0) ∨
  (fieldOp w = 0x8 ∧ field w 3 0 ∈ [0x8, 0x9, 0xA, 0xB, 0xC, 0xD, 0xF]) ∨
  (fieldOp w = 0xE ∧ field w 7 0 ∉ [0x9E, 0xA1]) ∨
  (fieldOp w = 0xF ∧ field w 7 0 ∉ [0x07, 0x0A, 0x15, 0x18, 0x1E, 0x29, 0x33, 0x55, 0x65])

/-- Along decode's own case tree (its arm of op `k` is the split's case `k + 1`): an arm with no test accepts every word, and the
others reject what their test does not list. -/
theorem decode_illegal_iff (w : Word) : decode w = .error (.illegal w) ↔ Reserved w := by
  have hlt : fieldOp w < 16 := Nat.mod_lt _ (by decide)
  have hn : field w 3 0 < 16 := Nat.mod_lt _ (by decide)
  unfold decode Reserved
  split
  case h_1 hop => split <;> [simp [hop]; split <;> simp [hop]]
  case h_6 hop | h_10 hop => simp [hop]
  case h_9 hop =>
    split
    case h_10 =>
      refine iff_of_true rfl (.inr (.inl ⟨hop, ?_⟩))
      simp only [imp_false, List.mem_cons, List.not_mem_nil, or_false] at *
      omega
    all_goals simp [*]
  case h_15 hop | h_16 hop => split <;> simp_all
  case h_2 hop | h_3 hop | h_4 hop | h_5 hop | h_7 hop | h_8 hop | h_11 hop | h_12 hop | h_13 hop | h_14 hop => simp [hop]
  case h_17 => simp only [imp_false] at *; omega

/-- Settles O4: the illegal words are the reserved ones, and a fetched one latches the fault in the state of the step's start. -/
theorem reservedWordsRaiseIllegalOpcode : Obligations.ReservedWordsRaiseIllegalOpcode := by
  refine ⟨decode_illegal_iff, ?_⟩
  rintro s _ hs rfl hw
  exact step_of_undecodable hs hw

/-! ### A latched fault -/

/-- The host operations that clear the latch (R272). -/
def HostOp.clearsLatch : HostOp → Bool
  | .reset | .loadProgram _ | .loadState _ => true
  | .keyDown _ | .keyUp _ | .readDisplay | .clearDirty | .saveState => false

theorem deliverKey_fault (s : State) (k : Fin 16) : (s.deliverKey k).fault = s.fault := by
  unfold State.deliverKey
  split <;> rfl

/-- An operation that is not refused clears the latch or leaves it alone (R271, R272). -/
theorem perform_fault {o : HostOp} {s t : State} (h : o.perform s = .ok t) :
    t.fault = if o.clearsLatch then none else s.fault := by
  cases o with
  | reset | readDisplay | saveState | clearDirty => cases h; rfl
  | loadProgram | loadState | keyUp =>
    simp only [HostOp.perform, State.loadProgram, State.loadState, State.keyUp] at h
    split at h <;> cases h
    rfl
  | keyDown =>
    simp only [HostOp.perform, State.keyDown] at h
    split at h <;> cases h
    exact deliverKey_fault _ _

/-- Settles O7: the operations the last clause leaves are those that do not clear the latch. -/
theorem latchedFaultStaysUntilResetOrLoad : Obligations.LatchedFaultStaysUntilResetOrLoad := by
  refine fun s r hs => ⟨step_of_latched hs, stepResult_of_latched hs, rfl, rfl, fun rom t => perform_fault,
    fun b t => perform_fault, fun o t hreset hprogram hstate ht => ?_⟩
  have hkeep : o.clearsLatch = false := by
    cases o with
    | reset => exact absurd rfl hreset
    | loadProgram rom => exact absurd rfl (hprogram rom)
    | loadState b => exact absurd rfl (hstate b)
    | keyDown | keyUp | readDisplay | clearDirty | saveState => rfl
  rw [perform_fault ht, hkeep, ← hs]
  rfl

/-! ### The wait in corrected mode -/

/-- A state whose steps wait, whatever the timers do (R91). -/
structure State.Suspended (s : State) : Prop where
  no_fault : s.fault = none
  waits : s.waits = true

section
variable {s : State}

theorem State.Suspended.of_corrected {r : RegIx} (hf : s.fault = none) (hr : s.awaitingKey = some r)
    (hm : s.config.keyWaitMode = .corrected) : s.Suspended := ⟨hf, waits_of_corrected hr hm⟩

/-- With WAIT_TICKS_TIMERS a waiting step is the tick (D17). -/
theorem State.Suspended.step_tick (h : s.Suspended) (ht : s.config.waitTicksTimers = true) : step s = .next s.tick := by
  rw [step_of_waits h.no_fault h.waits, State.waitStep, if_pos ht]

/-- Without it a waiting step changes nothing. -/
theorem State.Suspended.step_self (h : s.Suspended) (ht : s.config.waitTicksTimers = false) : step s = .next s := by
  rw [step_of_waits h.no_fault h.waits, State.waitStep, if_neg (ne_true_of_eq_false ht)]

end

/-- Where a step changes nothing, neither do `k` of them. -/
theorem stepsTo_self {s : State} (h : step s = .next s) : ∀ k, stepsTo k s s
  | 0 => rfl
  | k + 1 => ⟨s, h, stepsTo_self h k⟩

/-- Settles O8. -/
theorem waitingStepOnlyTicks : Obligations.WaitingStepOnlyTicks := by
  intro s r hf hr hm
  have hs := State.Suspended.of_corrected hf hr hm
  have hresult := stepResult_of_waits hf hs.waits
  cases ht : s.config.waitTicksTimers with
  | true => exact ⟨_, hs.step_tick ht, hresult, rfl, fun _ => ⟨countDown_toNat s.DT, countDown_toNat s.ST⟩, nofun⟩
  | false => exact ⟨_, hs.step_self ht, hresult, rfl, nofun, fun _ => ⟨rfl, rfl⟩⟩

/-- Settles O45: with WAIT_TICKS_TIMERS the steps are ticks that leave the wait as it was, without it they change nothing. -/
theorem waitLastsUntilAKeyComes : Obligations.WaitLastsUntilAKeyComes := by
  intro k s r hf hr hm
  have hs := State.Suspended.of_corrected hf hr hm
  cases ht : s.config.waitTicksTimers with
  | true =>
    exact stepsTo_of_ticks (P := fun s => s.Suspended ∧ s.config.waitTicksTimers = true)
      (fun _ ⟨hs, ht⟩ => ⟨hs.step_tick ht, ⟨hs.no_fault, hs.waits⟩, ht⟩) k s ⟨hs, ht⟩
  | false => exact ⟨s, stepsTo_self (hs.step_self ht) k, rfl, rfl, rfl⟩

/-! ### awaiting_key in reference mode -/

/-- The same outcome, with a change to its next state. -/
def mapNext (g : State → State) : Result → Result
  | .next t => .next (g t)
  | .fault f => .fault f
  | .refused r => .refused r

section
variable (a : Option RegIx) (s : State)

theorem skipIf_setAwaiting (c : Bool) : skipIf c (s.setAwaiting a) = mapNext (·.setAwaiting a) (skipIf c s) := by
  cases c <;> rfl

theorem withIndexed_setAwaiting (n : Nat) (i : Instr) {f : State → Result}
    (hf : f (s.setAwaiting a) = mapNext (·.setAwaiting a) (f s)) :
    withIndexed n i f (s.setAwaiting a) = mapNext (·.setAwaiting a) (withIndexed n i f s) := by
  unfold withIndexed
  rw [apply_ite (mapNext _)]
  exact if_congr .rfl hf rfl

theorem withKeyIndex_setAwaiting (x : RegIx) (i : Instr) {f : Fin 16 → State → Result}
    (hf : ∀ k, f k (s.setAwaiting a) = mapNext (·.setAwaiting a) (f k s)) :
    withKeyIndex x i f (s.setAwaiting a) = mapNext (·.setAwaiting a) (withKeyIndex x i f s) := by
  unfold withKeyIndex
  rw [apply_dite (mapNext _)]
  exact dite_congr rfl (fun _ => hf _) fun _ => rfl

/-- No instruction reads awaiting_key, and none but Fx0A writes it (R32). -/
theorem exec_setAwaiting {i : Instr} (hi : ∀ x, i ≠ .ldXK x) :
    exec i (s.setAwaiting a) = mapNext (·.setAwaiting a) (exec i s) := by
  cases i
  case ldXK x => exact absurd rfl (hi x)
  case ret =>
    simp only [exec, execRet, State.setAwaiting_stack]
    split <;> rfl
  case call nnn =>
    simp only [exec, execCall, apply_ite (mapNext _)]
    rfl
  case seImm | sneImm | seReg | sneReg => exact skipIf_setAwaiting a s _
  case skp | sknp =>
    simp only [exec_skp, exec_sknp]
    exact withKeyIndex_setAwaiting a s _ _ fun _ => skipIf_setAwaiting a s _
  case drw | ldB | ldMemX | ldXMem =>
    simp only [exec_drw, exec_ldB, exec_ldMemX, exec_ldXMem]
    exact withIndexed_setAwaiting a s _ _ rfl
  all_goals rfl

theorem afterExec_setAwaiting : (s.setAwaiting a).afterExec = s.afterExec.setAwaiting a := by
  unfold State.afterExec
  rw [State.setAwaiting_fault]
  split <;> rfl

theorem afterExec_awaitingKey : s.afterExec.awaitingKey = s.awaitingKey := by
  obtain ⟨d, v, h⟩ := afterExec_eq s
  rw [h]
  rfl

/-- In reference mode what is fetched does not depend on awaiting_key (R91). -/
theorem State.Fetches.setAwaiting {s : State} (h : s.Fetches) (hm : s.config.keyWaitMode = .reference) :
    (s.setAwaiting a).Fetches := ⟨h.no_fault, not_waits_of_reference hm, h.in_range⟩

end

/-- Settles O9: a fault and every instruction but Fx0A leave awaiting_key as it was; Fx0A writes it, whatever it was. -/
theorem referenceModeIgnoresAwaitingKey : Obligations.ReferenceModeIgnoresAwaitingKey := by
  intro s t a hm h
  have hw : (s.setAwaiting a).waits = false := not_waits_of_reference hm
  obtain ⟨hf, ⟨hwait, -⟩ | ⟨-, hpc, rfl⟩ | ⟨hfetch, ⟨e, he⟩, rfl⟩ | ⟨i, u, hi, hu, rfl⟩⟩ := step_cases h
  · cases (not_waits_of_reference hm).symm.trans hwait
  · exact ⟨_, step_of_fetch_out (s := s.setAwaiting a) hf hw hpc, rfl, .inr ⟨rfl, rfl⟩⟩
  · exact ⟨_, step_of_undecodable (hfetch.setAwaiting a hm) he, rfl, .inr ⟨rfl, rfl⟩⟩
  have hi' : (s.setAwaiting a).FetchesInstr i := ⟨hi.toFetches.setAwaiting a hm, hi.decoded⟩
  by_cases hx : ∃ x, i = .ldXK x
  · obtain ⟨x, rfl⟩ := hx
    cases hu
    exact ⟨_, step_of_exec hi' rfl, rfl, .inl rfl⟩
  · have hne : ∀ x, i ≠ .ldXK x := fun x e => hx ⟨x, e⟩
    have hu' : exec i (s.setAwaiting a).advance = .next (u.setAwaiting a) :=
      (exec_setAwaiting a s.advance hne).trans (congrArg _ hu)
    obtain ⟨-, -, -, -, -, hkeep, -⟩ := eachFieldHasItsWriters i _ _ hu
    refine ⟨_, (step_of_exec hi' hu').trans (congrArg _ (afterExec_setAwaiting a u)), rfl, .inr ⟨rfl, ?_⟩⟩
    exact (afterExec_awaitingKey u).trans (hkeep hne)

/-! ### A store into the next instruction -/

/-- Settles O44: the run stored at I, which is where the fetch has moved PC, begins with V0 and V1. -/
theorem storeIsSeenByTheNextFetch : Obligations.StoreIsSeenByTheNextFetch := by
  intro s x hm h hx hI hrange
  have hexec : exec (.ldMemX x) s.advance = .next (s.advance.writeRun s.I.toNat (s.regsUpTo x)) :=
    (exec_ldMemX x s.advance).trans (withIndexed_of_in_range hrange)
  have hread (j : RegIx) (hj : j ≤ x) :
      (s.advance.writeRun s.I.toNat (s.regsUpTo x)).readByte (s.I.toNat + j.val) = s.reg j :=
    readByte_writeRun_inside (s := s.advance) hm _ _ (regsUpTo_getElem s x j hj)
  refine ⟨_, step_eq_tick h hexec rfl, hI.symm, ?_⟩
  have hpc : (s.advance.writeRun s.I.toNat (s.regsUpTo x)).tick.PC = s.I := hI.symm
  rw [hpc, State.tick_readByte, State.tick_readByte]
  exact congrArg₂ opcodeOfBytes (hread 0 (Fin.zero_le x)) (hread 1 hx)

end Sys2Proof.Machine
end

section
/-! PROOFS of the serializer's family (49_state_serializer.md): what it is for a run of bytes to stand at an offset of a blob, each
field of R252's table as such a run, and the relation of a state and its blob, which determines each from the other. -/

namespace Sys2Proof.Machine

/-! ### Runs of bytes in a blob -/

/-- The bytes `xs` are those of the blob from offset `o` upwards. -/
def Stands (b : List Byte) (o : Nat) (xs : List Byte) : Prop := xs <+: b.drop o

section
variable {b : List Byte} {o : Nat}

theorem stands_append (xs ys : List Byte) : Stands b o (xs ++ ys) ↔ Stands b o xs ∧ Stands b (o + xs.length) ys := by
  unfold Stands
  rw [← List.drop_drop]
  constructor
  · rintro ⟨zs, h⟩
    rw [← h, List.append_assoc, List.drop_left]
    exact ⟨List.prefix_append xs _, List.prefix_append ys zs⟩
  · rintro ⟨⟨zs, h⟩, hys⟩
    rw [← h, List.drop_left] at hys
    rw [← h]
    exact (List.prefix_append_right_inj xs).mpr hys

/-- At the blob's start. -/
theorem stands_zero_iff {xs : List Byte} {n : Nat} (hxs : xs.length = n) : Stands b 0 xs ↔ b.take n = xs := by
  rw [Stands, List.drop_zero, List.prefix_iff_eq_take, hxs, eq_comm]

/-- A run made of `n` pieces of `c` bytes each stands where its `i`-th piece stands `c * i` bytes on. -/
theorem stands_flatMap {α : Type} {f : α → List Byte} {c n : Nat} (hf : ∀ x, (f x).length = c) {l : List α}
    (hl : l.length = n) : Stands b o (l.flatMap f) ↔ ∀ i (hi : i < n), Stands b (o + c * i) (f (l[i]'(hl ▸ hi))) := by
  subst hl
  induction l generalizing o with
  | nil => simp [Stands]
  | cons x l ih =>
    rw [List.flatMap_cons, stands_append, hf, ih]
    constructor
    · rintro ⟨h0, h⟩ (_ | i) hi
      · exact h0
      · have := h i (Nat.lt_of_succ_lt_succ hi)
        rwa [show o + c * (i + 1) = o + c + c * i by ring]
    · intro h
      refine ⟨h 0 (Nat.succ_pos _), fun i hi => ?_⟩
      rw [show o + c + c * i = o + c * (i + 1) by ring]
      exact h (i + 1) (Nat.succ_lt_succ hi)

/-- Byte by byte. -/
theorem stands_iff_bytes {xs : List Byte} {n : Nat} (hxs : xs.length = n) (h : o + n ≤ b.length) :
    Stands b o xs ↔ ∀ j (hj : j < n), blobByte b (o + j) = xs[j]'(hxs ▸ hj) := by
  subst hxs
  unfold Stands
  rw [List.prefix_iff_getElem?]
  refine forall₂_congr fun j hj => ?_
  have hb : o + j < b.length := by omega
  rw [List.getElem?_drop, blobByte, List.getD_eq_getElem _ _ hb, List.getElem?_eq_getElem hb, Option.some_inj]

theorem stands_byte (h : o < b.length) (v : Byte) : Stands b o [v] ↔ blobByte b o = v := by
  simp [stands_iff_bytes (xs := [v]) rfl (show o + 1 ≤ b.length from h)]

/-- Two bytes side by side determine both. -/
theorem byte_append_inj {p q u v : Byte} : p ++ q = u ++ v ↔ p = u ∧ q = v := by
  have e (p q : Byte) : (p ++ q).toNat = p.toNat * 256 + q.toNat := by
    rw [BitVec.toNat_append, ← Nat.shiftLeft_add_eq_or_of_lt q.isLt, Nat.shiftLeft_eq]
  rw [← BitVec.toNat_inj, ← BitVec.toNat_inj, ← BitVec.toNat_inj, e, e]
  omega

/-- The two bytes of a big-endian word (R252, D1). -/
theorem stands_pair (h : o + 1 < b.length) (p q : Byte) : Stands b o [p, q] ↔ blobWord b o = p ++ q := by
  rw [show [p, q] = [p] ++ [q] from rfl, stands_append, stands_byte (by omega), List.length_singleton, stands_byte h, blobWord,
    byte_append_inj]

theorem stands_be16 (h : o + 1 < b.length) (w : Word) : Stands b o (be16 w) ↔ blobWord b o = w := by
  rw [be16, stands_pair h]
  exact iff_of_eq (congrArg _ (opcodeOfBytes_bytesOfOpcode w))

end

/-! ### The pieces of the blob -/

theorem readRun_length (s : State) (a n : Nat) : (s.readRun a n).length = n := Memory.length_readRun ..

theorem keysBytes_length (s : State) : s.keysBytes.length = 2 := rfl

/-- R252's table, but for the checksum. -/
theorem stands_saveBody {b : List Byte} {s : State} : Stands b 0 s.saveBody ↔
    Stands b 0 blobHeader ∧ Stands b 5 (s.readRun 0 memSize) ∧ Stands b 4101 s.V.toList ∧ Stands b 4117 (be16 s.I) ∧
    Stands b 4119 (be16 s.PC) ∧ Stands b 4121 [s.DT, s.ST, BitVec.ofNat 8 s.stack.length] ∧ Stands b 4124 s.stackBytes ∧
    Stands b 4156 s.keysBytes ∧ Stands b 4158 [awaitingByte s.awaitingKey] ∧ Stands b 4159 s.displayBytes := by
  simp only [State.saveBody, stands_append, and_assoc, List.length_append, readRun_length, Vector.length_toList, be16_length,
    stackBytes_length, keysBytes_length, blobHeader, List.length_cons, List.length_nil, memSize]

/-- Everything but the checksum is 4415 bytes. -/
theorem saveBody_length (s : State) : s.saveBody.length = 4415 := by
  have h := saveState_length s
  rw [State.saveState, List.length_append, be16_length] at h
  omega

/-- A packed byte is the byte of its eight bits. -/
theorem eq_packByte_iff (v : Byte) (f : Nat → Bool) : v = packByte f ↔ ∀ k < 8, v.getLsbD k = f k := by
  have hbit {k : Nat} (hk : k < 8) : (packByte f).getLsbD k = f k := by rw [packByte_bits, decide_eq_true hk, Bool.true_and]
  refine ⟨fun h k hk => ?_, fun h => BitVec.eq_of_getLsbD_eq fun k hk => ?_⟩
  · rw [h, hbit hk]
  · rw [h k hk, hbit hk]

/-- R253: one row's eight bytes. -/
theorem stands_rowBytes {b : List Byte} {o : Nat} (ho : o + 8 ≤ b.length) (row : Vector Bool displayW) :
    Stands b o (rowBytes row) ↔
      ∀ c : Fin displayW, (blobByte b (o + c.val / 8)).getLsbD (7 - c.val % 8) = row.get c := by
  rw [stands_iff_bytes (rowBytes_length row) ho]
  simp only [rowBytes, List.getElem_map, List.getElem_range, eq_packByte_iff, Vector.get_eq_getElem]
  constructor
  · intro h c
    have hc : c.val < 64 := c.isLt
    rw [h (c.val / 8) (by omega) (7 - c.val % 8) (by omega), show 8 * (c.val / 8) + (7 - (7 - c.val % 8)) = c.val by omega]
    simp
  · intro h j hj k hk
    have hc : 8 * j + (7 - k) < 64 := by omega
    have := h ⟨_, hc⟩
    rw [show (8 * j + (7 - k)) / 8 = j by omega, show 7 - (8 * j + (7 - k)) % 8 = k by omega] at this
    rw [this]
    simp [hc]

section
variable {b : List Byte} (hb : b.length = 4417) {s : State}
include hb

theorem stands_memory :
    Stands b 5 (s.readRun 0 memSize) ↔ ∀ a, a < 4096 → blobByte b (5 + a) = s.readByte a := by
  rw [stands_iff_bytes (readRun_length s 0 memSize) (by rw [hb]; decide)]
  refine forall₂_congr fun a _ => ?_
  simp only [State.readRun, Memory.readRun, State.readByte, List.getElem_map, List.getElem_range, Nat.zero_add]

theorem stands_regs : Stands b 4101 s.V.toList ↔ ∀ x : RegIx, blobByte b (4101 + x.val) = s.reg x := by
  rw [stands_iff_bytes s.V.length_toList (by omega), Fin.forall_iff]
  simp [State.reg, Vector.get_eq_getElem]

theorem stands_timers_depth (hs : s.stack.length ≤ 16) : Stands b 4121 [s.DT, s.ST, BitVec.ofNat 8 s.stack.length] ↔
    blobByte b 4121 = s.DT ∧ blobByte b 4122 = s.ST ∧ (blobByte b 4123).toNat = s.stack.length := by
  have hd (v : Byte) : v = BitVec.ofNat 8 s.stack.length ↔ v.toNat = s.stack.length := by
    rw [← BitVec.toNat_inj, BitVec.toNat_ofNat, Nat.mod_eq_of_lt (by omega)]
  change Stands b 4121 ([s.DT] ++ ([s.ST] ++ [_])) ↔ _
  simp only [stands_append, List.length_singleton]
  rw [stands_byte (by omega), stands_byte (by omega), stands_byte (by omega), hd]

/-- R254. -/
theorem stands_stackBytes :
    Stands b 4124 s.stackBytes ↔ ∀ e, e < 16 → blobWord b (4124 + 2 * e) = s.stack.getD e 0 := by
  rw [State.stackBytes, stands_flatMap (fun _ => be16_length _) List.length_range]
  refine forall₂_congr fun e he => ?_
  rw [List.getElem_range, stands_be16 (by simp only [stackLimit] at he; omega)]

/-- R255: the mask's low byte holds the latches 0 to 7, its high byte those from 8. -/
theorem stands_keysBytes :
    Stands b 4156 s.keysBytes ↔ ∀ k : Fin 16, (blobWord b 4156).getLsbD k.val = s.keys.get k := by
  simp only [← keyAt_eq]
  rw [State.keysBytes, stands_pair (by omega), blobWord, byte_append_inj, eq_packByte_iff, eq_packByte_iff]
  simp only [BitVec.getLsbD_append]
  constructor
  · rintro ⟨hhi, hlo⟩ k
    split
    · next hk => exact hlo k hk
    · next hk =>
      have := hhi (k - 8) (by omega)
      rwa [Nat.sub_add_cancel (by omega)] at this
  · intro h
    refine ⟨fun k hk => ?_, fun k hk => ?_⟩
    · simpa using h ⟨k + 8, by omega⟩
    · simpa [hk] using h ⟨k, by omega⟩

/-- R253. -/
theorem stands_displayBytes : Stands b 4159 s.displayBytes ↔ ∀ (r : Fin displayH) (c : Fin displayW),
    (blobByte b (4159 + 8 * r.val + c.val / 8)).getLsbD (7 - c.val % 8) = cell s.display r c := by
  rw [State.displayBytes, stands_flatMap rowBytes_length s.display.length_toList, Fin.forall_iff]
  refine forall₂_congr fun r hr => ?_
  rw [stands_rowBytes (by simp only [displayH] at hr; omega)]
  simp [cell, Vector.get_eq_getElem]

end

/-! ### A state and its blob -/

/-- The blob `b` is one of the state `s`: R252's table, read field by field (R253 to R256). -/
structure BlobOf (s : State) (b : List Byte) : Prop where
  length : b.length = 4417
  header : b.take 5 = blobHeader
  memory : ∀ a, a < 4096 → blobByte b (5 + a) = s.readByte a
  regs : ∀ x : RegIx, blobByte b (4101 + x.val) = s.reg x
  index : blobWord b 4117 = s.I
  pc : blobWord b 4119 = s.PC
  delay : blobByte b 4121 = s.DT
  sound : blobByte b 4122 = s.ST
  depth : (blobByte b 4123).toNat = s.stack.length
  stack : ∀ e, e < 16 → blobWord b (4124 + 2 * e) = s.stack.getD e 0
  keys : ∀ k : Fin 16, (blobWord b 4156).getLsbD k.val = s.keys.get k
  awaiting : blobByte b 4158 = awaitingByte s.awaitingKey
  display : ∀ (r : Fin displayH) (c : Fin displayW),
    (blobByte b (4159 + 8 * r.val + c.val / 8)).getLsbD (7 - c.val % 8) = cell s.display r c
  checksum : blobWord b 4415 = checksum (b.take 4415)

/-- The blob is what stands before the checksum, and the checksum of that. -/
theorem eq_saveState_iff {b : List Byte} (hb : b.length = 4417) (s : State) :
    b = s.saveState ↔ Stands b 0 s.saveBody ∧ blobWord b 4415 = checksum (b.take 4415) := by
  have hwhole : b = s.saveState ↔ Stands b 0 s.saveState := by
    rw [stands_zero_iff (saveState_length s), ← hb, List.take_length]
  rw [hwhole, State.saveState, stands_append, saveBody_length, stands_be16 (by omega)]
  exact and_congr_right fun h => by rw [(stands_zero_iff (saveBody_length s)).mp h]

/-- The header is the magic and the version. -/
theorem take_five_iff {b : List Byte} (h : 4 < b.length) :
    b.take 5 = blobHeader ↔ b.take 4 = [0x43, 0x38, 0x53, 0x56] ∧ blobByte b 4 = 0x01 := by
  rw [← stands_zero_iff (n := 5) rfl, ← stands_zero_iff (n := 4) rfl, ← stands_byte h]
  exact stands_append [0x43, 0x38, 0x53, 0x56] [0x01]

/-- With at most 16 stack entries, `save_state` gives the one blob of the state. -/
theorem eq_saveState_iff_blobOf {b : List Byte} {s : State} (hs : s.stack.length ≤ 16) : b = s.saveState ↔ BlobOf s b := by
  suffices h : b.length = 4417 → (b = s.saveState ↔ BlobOf s b) from
    ⟨fun e => (h (e ▸ saveState_length s)).mp e, fun e => (h e.length).mpr e⟩
  intro hb
  rw [eq_saveState_iff hb, stands_saveBody, stands_zero_iff (n := 5) rfl, stands_memory hb, stands_regs hb,
    stands_be16 (by omega), stands_be16 (by omega), stands_timers_depth hb hs, stands_stackBytes hb, stands_keysBytes hb,
    stands_byte (by omega), stands_displayBytes hb]
  constructor
  · rintro ⟨⟨hheader, hmemory, hregs, hindex, hpc, ⟨hdelay, hsound, hdepth⟩, hstack, hkeys, hawaiting, hdisplay⟩, hsum⟩
    exact ⟨hb, hheader, hmemory, hregs, hindex, hpc, hdelay, hsound, hdepth, hstack, hkeys, hawaiting, hdisplay, hsum⟩
  · intro h
    exact ⟨⟨h.header, h.memory, h.regs, h.index, h.pc, ⟨h.delay, h.sound, h.depth⟩, h.stack, h.keys, h.awaiting,
      h.display⟩, h.checksum⟩

theorem blobOf_saveState {s : State} (hs : s.stack.length ≤ 16) : BlobOf s s.saveState :=
  (eq_saveState_iff_blobOf hs).mp rfl

theorem awaitingByte_toNat (r : RegIx) : (awaitingByte (some r)).toNat = r.val :=
  (BitVec.toNat_ofNat ..).trans (Nat.mod_eq_of_lt (by omega))

theorem checksum_toNat (body : List Byte) : (checksum body).toNat = (body.map BitVec.toNat).sum % 65536 :=
  BitVec.toNat_ofNat ..

/-- Settles O52: the fields of `BlobOf`, the last two encodings written out. -/
theorem savedBlobHasTheLayout : Obligations.SavedBlobHasTheLayout := by
  intro s hs
  have h := blobOf_saveState hs
  refine ⟨_, rfl, h.length, h.header, h.memory, h.regs, h.index, h.pc, h.delay, h.sound, h.depth, h.stack, h.keys,
    fun r hr => ?_, fun hr => ?_, h.display, ?_⟩
  · rw [h.awaiting, hr, awaitingByte_toNat]
  · rw [h.awaiting, hr]
    rfl
  · rw [h.checksum, checksum_toNat]

/-! ### Blobs that load -/

/-- None of R256's defects holds: what `load_state` checks. -/
theorem blobAccepted_iff (b : List Byte) : blobAccepted b = true ↔
    b.length = 4417 ∧ b.take 4 = [0x43, 0x38, 0x53, 0x56] ∧ blobByte b 4 = 0x01 ∧ blobWord b 4415 = checksum (b.take 4415) ∧
    (blobWord b 4117).toNat ≤ 0x0FFF ∧ blobDepth b ≤ 16 ∧
    (∀ e, blobDepth b ≤ e → e < 16 → blobWord b (4124 + 2 * e) = 0) ∧
    ((blobByte b 4158).toNat ≤ 0x0F ∨ blobByte b 4158 = 0xFF) := by
  have hstack : (∀ e < 16, e < blobDepth b ∨ blobWord b (4124 + 2 * e) = 0) ↔
      ∀ e, blobDepth b ≤ e → e < 16 → blobWord b (4124 + 2 * e) = 0 :=
    forall_congr' fun e => by rw [or_iff_not_imp_left, Nat.not_lt, imp.swap]
  simp only [blobAccepted, Bool.and_eq_true, Bool.or_eq_true, beq_iff_eq, decide_eq_true_eq, List.all_eq_true, List.mem_range,
    stackLimit, and_assoc, hstack]

theorem loadState_error_iff (b : List Byte) (s : State) :
    s.loadState b = .error .stateCorrupt ↔ ¬ blobAccepted b = true := by
  unfold State.loadState
  split <;> simp [*]

/-- Settles O53: each clause is the negation of one of load_state's checks. -/
theorem loadStateRefusesCorruptBlobs : Obligations.LoadStateRefusesCorruptBlobs := by
  intro b s
  refine (loadState_error_iff b s).trans ?_
  rw [blobAccepted_iff, ← BitVec.toNat_inj (x := blobWord b 4415), checksum_toNat]
  simp only [not_and_or, not_or, not_forall, Nat.not_le, exists_prop, blobDepth, ne_eq]

/-! ### What a blob restores -/

theorem awaitingOfByte_awaitingByte (a : Option RegIx) : awaitingOfByte (awaitingByte a) = a := by
  revert a
  decide

theorem awaitingByte_awaitingOfByte {v : Byte} (hv : v.toNat ≤ 0x0F ∨ v = 0xFF) : awaitingByte (awaitingOfByte v) = v := by
  rcases hv with hv | rfl
  · rw [awaitingOfByte, dif_pos (by omega)]
    exact BitVec.eq_of_toNat_eq (awaitingByte_toNat _)
  · rfl

section
variable {s : State} {b : List Byte}

theorem restore_readByte (hb : b.length = 4417) {a : Nat} (ha : a < 4096) :
    (s.restore b).readByte a = blobByte b (5 + a) := by
  have hlt : 5 + a < b.length := by omega
  change (Memory.ofBytes s.config.font 0 ((b.drop 5).take memSize)).read s.config.font a = _
  rw [Memory.read_ofBytes, if_pos (Nat.zero_le a), Nat.sub_zero, List.getElem?_take_of_lt ha, List.getElem?_drop,
    List.getElem?_eq_getElem hlt, Option.getD_some, blobByte, List.getD_eq_getElem _ _ hlt]

theorem restore_reg (x : RegIx) : (s.restore b).reg x = blobByte b (4101 + x.val) := by
  simp [State.restore, State.reg, Vector.get_eq_getElem]

theorem restore_key (k : Fin 16) : (s.restore b).keys.get k = (blobWord b 4156).getLsbD k.val := by
  simp [State.restore, Vector.get_eq_getElem]

theorem restore_cell (r : Fin displayH) (c : Fin displayW) :
    cell (s.restore b).display r c = (blobByte b (4159 + 8 * r.val + c.val / 8)).getLsbD (7 - c.val % 8) := by
  simp [State.restore, cell, Vector.get_eq_getElem]

theorem restore_stack_length : (s.restore b).stack.length = blobDepth b := by
  simp [State.restore]

theorem restore_stack_getD (e : Nat) :
    (s.restore b).stack.getD e 0 = if e < blobDepth b then blobWord b (4124 + 2 * e) else 0 := by
  simp only [State.restore, List.getD_eq_getElem?_getD, List.getElem?_map]
  split
  · next h => simp [List.getElem?_range h]
  · next h => simp [h]

theorem restore_config (s : State) (b : List Byte) : (s.restore b).config = s.config := rfl

theorem restore_rngDraws (s : State) (b : List Byte) : (s.restore b).rngDraws = s.rngDraws := rfl

/-- An accepted blob is one of the state it restores. -/
theorem blobOf_restore (h : blobAccepted b = true) (s : State) : BlobOf (s.restore b) b := by
  obtain ⟨hb, hmagic, hversion, hsum, -, -, hstack, hawaiting⟩ := (blobAccepted_iff b).mp h
  exact {
    length := hb
    header := (take_five_iff (by omega)).mpr ⟨hmagic, hversion⟩
    memory := fun a ha => (restore_readByte hb ha).symm
    regs := fun x => (restore_reg x).symm
    index := rfl
    pc := rfl
    delay := rfl
    sound := rfl
    depth := restore_stack_length.symm
    stack := fun e he => by
      rw [restore_stack_getD]
      split
      · rfl
      · next hd => exact hstack e (Nat.not_lt.mp hd) he
    keys := fun k => (restore_key k).symm
    awaiting := (awaitingByte_awaitingOfByte hawaiting).symm
    display := fun r c => (restore_cell r c).symm
    checksum := hsum }

end

/-- The blob of a state of the invariant is accepted. -/
theorem blobAccepted_saveState {m : State} (hm : m.Inv) : blobAccepted m.saveState = true := by
  have h := blobOf_saveState hm.stack_bound
  have hdepth : blobDepth m.saveState = m.stack.length := h.depth
  obtain ⟨hmagic, hversion⟩ := (take_five_iff (by rw [h.length]; decide)).mp h.header
  refine (blobAccepted_iff _).mpr ⟨h.length, hmagic, hversion, h.checksum, ?_, ?_, fun e hd he => ?_, ?_⟩
  · have := hm.index_bound
    rw [h.index]
    omega
  · exact hdepth.trans_le hm.stack_bound
  · rw [h.stack e he]
    exact List.getD_eq_default _ _ (hdepth ▸ hd)
  · rw [h.awaiting]
    cases m.awaitingKey with
    | none => exact .inr rfl
    | some r => exact .inl (by rw [awaitingByte_toNat]; omega)

/-- A blob is of one state only, as far as the blob holds its fields (R251). -/
theorem BlobOf.same_fields {m t : State} {b : List Byte} (hm : BlobOf m b) (ht : BlobOf t b) :
    (∀ a, a < 4096 → t.readByte a = m.readByte a) ∧ t.V = m.V ∧ t.I = m.I ∧ t.PC = m.PC ∧ t.DT = m.DT ∧ t.ST = m.ST ∧
      t.display = m.display ∧ t.keys = m.keys ∧ t.awaitingKey = m.awaitingKey := by
  refine ⟨fun a ha => (ht.memory a ha).symm.trans (hm.memory a ha), State.V_ext fun x => (ht.regs x).symm.trans (hm.regs x),
    ht.index.symm.trans hm.index, ht.pc.symm.trans hm.pc, ht.delay.symm.trans hm.delay, ht.sound.symm.trans hm.sound,
    display_ext fun r c => (ht.display r c).symm.trans (hm.display r c), ?_, ?_⟩
  · refine Vector.ext fun i hi => ?_
    simpa [Vector.get_eq_getElem] using (ht.keys ⟨i, hi⟩).symm.trans (hm.keys ⟨i, hi⟩)
  · rw [← awaitingOfByte_awaitingByte t.awaitingKey, ← ht.awaiting, hm.awaiting, awaitingOfByte_awaitingByte]

/-- That includes the stack, which is at most 16 deep. -/
theorem BlobOf.same_stack {m t : State} {b : List Byte} (hm : BlobOf m b) (ht : BlobOf t b) (hs : m.stack.length ≤ 16) :
    t.stack = m.stack := by
  have hlen : t.stack.length = m.stack.length := ht.depth.symm.trans hm.depth
  apply List.ext_getElem hlen
  intro e h1 h2
  rw [← List.getD_eq_getElem _ 0, ← List.getD_eq_getElem _ 0, ← ht.stack e (by omega), hm.stack e (by omega)]

/-- Only an accepted blob loads, and what loads is restored (R256, R257). -/
theorem accepted_of_perform_loadState {b : List Byte} {s t : State} (h : (HostOp.loadState b).perform s = .ok t) :
    blobAccepted b = true ∧ t = s.restore b := by
  simp only [HostOp.perform, State.loadState] at h
  split at h <;> cases h
  exact ⟨‹_›, rfl⟩

/-- Settles O54: a saved blob is one of the state saved and one of the state it restores, whose fields are therefore the same; a
blob that loads is the one blob of the state it restores. -/
theorem saveLoadRoundTrip : Obligations.SaveLoadRoundTrip := by
  constructor
  · intro m s hm
    have hok := blobAccepted_saveState hm
    have hblob := blobOf_saveState hm.stack_bound
    have hrestored := blobOf_restore hok s
    obtain ⟨hmem, hV, hI, hPC, hDT, hST, hdisplay, hkeys, hawaiting⟩ := hblob.same_fields hrestored
    exact ⟨_, load_state_ok s hok, hmem, hV, hI, hPC, hblob.same_stack hrestored hm.stack_bound, hDT, hST, hdisplay, hkeys,
      hawaiting, rfl, rfl, restore_config .., restore_rngDraws ..⟩
  · intro b s t h
    obtain ⟨hok, rfl⟩ := accepted_of_perform_loadState h
    have hdepth : (s.restore b).stack.length ≤ 16 := restore_stack_length.trans_le (blobAccepted_bounds hok).2
    exact ((eq_saveState_iff_blobOf hdepth).mpr (blobOf_restore hok s)).symm

end Sys2Proof.Machine
end
